-- ==== Sys2Proof/Word.lean ====
section
/-!
DEFINITION. The word types of the block and of its boundary (`spec/00_scope.md` R8 to R12).
-/

namespace Sys2Proof

/-- `XLEN = 32`: every CSR but the cycle counter, every address and every auxiliary value (R8). -/
abbrev Word := BitVec 32

/-- A CSR number, `CSR_ADDR_WIDTH = 12` (R9). -/
abbrev CsrAddr := BitVec 12

/-- The cycle counter, `CYCLE_WIDTH = 64` (R10). -/
abbrev Counter := BitVec 64

/-- An exception or interrupt code, `EXC_CODE_WIDTH = 31` (R12). -/
abbrev Code := BitVec 31

/-- One byte of the program store that the reference driver fetches from (R231). -/
abbrev Byte := BitVec 8

end Sys2Proof
end

