-- ==== Sys2Proof/Machine/Ports.lean ====
section
/-!
DEFINITION. The boundary of the block in one tick: the input record of `spec/10_state.md` R51, the output record of
R52, and what the environment may present in one tick of the reference driver (`spec/42_csr_instructions.md` R231).
-/

namespace Sys2Proof.Machine

/-- The decoded identity of R104. -/
inductive InstrKind where
  /-- `NONE = 0`: every other instruction, and a tick with no instruction at the decode stage. -/
  | none
  /-- `ECALL = 1`. -/
  | ecall
  /-- `EBREAK = 2`. -/
  | ebreak
  /-- `MRET = 3`. -/
  | mret
  /-- `SRET = 4`. -/
  | sret
deriving DecidableEq, Repr

/-- The inputs of one tick (R51), each an arbitrary value of its width (R53). `instrKind` is the 3-bit port of R104. -/
structure TickInputs where
  idExcValid : Bool
  idExcCode : Code
  idPc : Word
  memExcValid : Bool
  memExcCode : Code
  memPc : Word
  mmuExcValid : Bool
  mmuExcCode : Code
  mmuPc : Word
  mmuTval : Word
  irq : BitVec 32
  instrKind : BitVec 3
  fetchPc : Word
  jumpValid : Bool
  jumpTarget : Word
  csrWEn : Bool
  csrWAddr : CsrAddr
  csrWData : Word
  csrRAddr : CsrAddr
deriving DecidableEq, Repr

/-- The idle inputs of R231: every flag 0, `irq = 0`, `instr_kind = NONE`, every address and datum 0. -/
def TickInputs.idle : TickInputs where
  idExcValid := false
  idExcCode := 0
  idPc := 0
  memExcValid := false
  memExcCode := 0
  memPc := 0
  mmuExcValid := false
  mmuExcCode := 0
  mmuPc := 0
  mmuTval := 0
  irq := 0
  instrKind := 0
  fetchPc := 0
  jumpValid := false
  jumpTarget := 0
  csrWEn := false
  csrWAddr := 0
  csrWData := 0
  csrRAddr := 0

/-- The outputs of one tick (R52). -/
structure TickOutputs where
  redirectValid : Bool
  redirectTarget : Word
  priv : BitVec 2
  mmuEnable : Bool
  startPaging : Bool
  csrRData : Word
deriving DecidableEq, Repr

/-- What the environment presents in one coming tick (R53; log entry 2). -/
inductive EnvTick where
  /-- A tick in which the driver issues no instruction: it presents the identity `NONE` (R104) and, as `fetch_pc`, the
  address of the next instruction (`spec/95_test_vectors.md` L3, "an extra idle tick"); the environment's record drives
  every other port. -/
  | noInstruction (inp : TickInputs)
  /-- The inputs the environment presents beside the driver's own in its next instruction tick (R231, "unless a
  program says otherwise"). -/
  | beside (inp : TickInputs)
deriving DecidableEq, Repr

end Sys2Proof.Machine
end

