-- ==== Sys2Proof/Config.lean ====
section
/-!
DEFINITION. The implementation parameters of `spec/00_scope.md` R13 to R19 as one record that a model takes as an
argument, and the values at which a run from reset has them.
-/

namespace Sys2Proof

/-- R16: what an SRET does at Supervisor with `mstatus.TSR = 1`. -/
inductive TsrSretMode where
  | noop
  | illegal
deriving DecidableEq, Repr

/-- R18: whether a non-delegated interrupt below Machine is gated by the current level's enable bit. -/
inductive IntGateBelowM where
  | currentEnable
  | always
deriving DecidableEq, Repr

/-- R19: what becomes of an ordinary write to a register outside the direct-write set in a tick with a direct write. -/
inductive OrdinaryWriteOnTrapTick where
  | drop
  | keepUntouched
deriving DecidableEq, Repr

/-- The parameters of the block: "A model takes each one as an argument" (`spec/00_scope.md` section 3; log
entry 9). -/
structure Params where
  /-- `MISA_VALUE`, R13. -/
  misaValue : Word
  /-- `SSTATUS_MASK`, R14. -/
  sstatusMask : Word
  /-- `SIE_MASK`, R15. -/
  sieMask : Word
  /-- `TSR_SRET_MODE`, R16. -/
  tsrSretMode : TsrSretMode
  /-- `ENV_FROM_IDENTITY`, R17. -/
  envFromIdentity : Bool
  /-- `INT_GATE_BELOW_M`, R18. -/
  intGateBelowM : IntGateBelowM
  /-- `ORDINARY_WRITE_ON_TRAP_TICK`, R19. -/
  ordinaryWriteOnTrapTick : OrdinaryWriteOnTrapTick
deriving DecidableEq, Repr

/-- The defaults of R14 to R19. DESIGN CHOICE: R13 leaves `MISA_VALUE` open; this is its example value (log entry 1). -/
def Config.defaults : Params where
  misaValue := 0x40140100
  sstatusMask := 0x00000122
  sieMask := 0x00000222
  tsrSretMode := .noop
  envFromIdentity := true
  intGateBelowM := .currentEnable
  ordinaryWriteOnTrapTick := .drop

/-- DESIGN CHOICE: R20 leaves `RESET_PC` open; the driver's first fetch address in a run from reset (log entry 3). -/
def Config.resetPc : Word := 0

end Sys2Proof
end

