-- ==== Sys2Proof/Syntax.lean ====
section
/-!
DEFINITION. The instructions of `spec/opcode_table.json`, one constructor a row, and the reasons for which the
decoder refuses a word (`spec/30_encoding.md` R110 to R113).
-/

namespace Sys2Proof

/-- The ten instructions of the boundary contract (R110, R112). A register number is an index into the driver's
register file (`WellFormed.lean` bounds it); a CSR address and an immediate are bits of the encoding. -/
inductive Instr where
  /-- ECALL, R201. -/
  | ecall
  /-- EBREAK, R203. -/
  | ebreak
  /-- SRET, R208. -/
  | sret
  /-- MRET, R204. -/
  | mret
  /-- CSRRW, R232. -/
  | csrrw (rd : Nat) (csr : CsrAddr) (rs1 : Nat)
  /-- CSRRS, R233. -/
  | csrrs (rd : Nat) (csr : CsrAddr) (rs1 : Nat)
  /-- CSRRC, R234. -/
  | csrrc (rd : Nat) (csr : CsrAddr) (rs1 : Nat)
  /-- CSRRWI, R235. -/
  | csrrwi (rd : Nat) (csr : CsrAddr) (zimm : BitVec 5)
  /-- CSRRSI, R236. -/
  | csrrsi (rd : Nat) (csr : CsrAddr) (zimm : BitVec 5)
  /-- CSRRCI, R237. -/
  | csrrci (rd : Nat) (csr : CsrAddr) (zimm : BitVec 5)
deriving DecidableEq, Repr

/-- Why a word is no instruction of the contract: R113 refuses "by name" every encoding outside the table. -/
inductive DecodeRefusal where
  /-- Fewer than the four bytes of an instruction were given (R110: all ten are 32-bit). -/
  | truncated
  /-- The major opcode is not SYSTEM (`0x73`, R110): an instruction of the external pipeline (R5). -/
  | notSystem
  /-- `funct3 = 100`, "not an instruction of the contract" (R112). -/
  | funct3Unused
  /-- `funct3 = 000` with an `rd`, `rs1` or `funct12` that R112 does not list (WFI, SFENCE.VMA; R113). -/
  | privilegedUnlisted
deriving DecidableEq, Repr

end Sys2Proof
end

