-- ==== Sys2Proof/Machine/State.lean ====
section
/-!
DEFINITION. The state: the CSR bank and the privilege latch of `spec/10_state.md`, the reference driver's general
registers, program counter and program store (`spec/42_csr_instructions.md` R231), the environment's coming ticks and
the outputs of the last step's ticks; the controller's decision types (`spec/60_exceptions.md` R300); the reasons for
which a step stops; and the state after reset (`spec/70_reset_and_hazards.md` R400).
-/

namespace Sys2Proof.Machine

/-- The privilege latch's three values (R30). Its encoding is `privBits`. -/
inductive Priv where
  | user
  | supervisor
  | machine
deriving DecidableEq, Repr

/-- The registers and views of the CSR map (R33), named. Their numbers are `csrMap`. -/
inductive Csr where
  | sstatus
  | sie
  | stvec
  | sscratch
  | sepc
  | scause
  | stval
  | satp
  | mstatus
  | misa
  | medeleg
  | mideleg
  | mie
  | mtvec
  | mscratch
  | mepc
  | mcause
  | mtval
  | cycle
  | cycleh
deriving DecidableEq, Repr

/-- The stored registers of the bank (R33) and the cycle counter (R46). `sstatus` and `sie` are views (R36, R42), and
`misa` is the parameter `MISA_VALUE` (R45). -/
structure Bank where
  mstatus : Word
  medeleg : Word
  mideleg : Word
  mie : Word
  mtvec : Word
  mscratch : Word
  mepc : Word
  mcause : Word
  mtval : Word
  stvec : Word
  sscratch : Word
  sepc : Word
  scause : Word
  stval : Word
  satp : Word
  cyc : Counter
deriving DecidableEq, Repr

/-- The one decision of a tick (R300). -/
inductive Decision where
  /-- A synchronous exception. -/
  | excTrap (code : Code) (epc : Word) (tval : Word)
  /-- An interrupt. -/
  | intTrap (code : Code) (epc : Word)
  /-- Return from machine trap. -/
  | mret
  /-- Return from supervisor trap. -/
  | sret
  /-- None of the six conditions holds (R360). -/
  | noTrap
deriving DecidableEq, Repr

/-- The seven values of a direct write, `DIRECT_SET` of R150 and R164. -/
structure DirectWrite where
  mstatus : Word
  mepc : Word
  mcause : Word
  mtval : Word
  sepc : Word
  scause : Word
  stval : Word
deriving DecidableEq, Repr

/-- What a decision does (R324): the direct write, the redirect and the new privilege. -/
structure Effect where
  dw : Option DirectWrite
  redirectValid : Bool
  redirectTarget : Word
  newPriv : Priv
deriving DecidableEq, Repr

/-- What one tick returns (R150): its outputs and the block's state at the start of the next tick. -/
structure TickResult where
  out : TickOutputs
  bank : Bank
  priv : Priv
deriving DecidableEq, Repr

/-- Why a step faults. -/
inductive Fault where
  /-- Raised by a tick whose decision is a return from machine trap while the forwarded `mstatus.MPP` is `0b10`: the
  spec's own model fault (R206, R185; log entry 16). Safe: the tick commits nothing and no claim holds of a run that reaches it. -/
  | reservedMPP
  /-- Raised by the driver's fetch when a byte of the instruction was never placed in the program store (log entry 4).
  Safe: the model stops where a real fetch stage would read something. -/
  | fetchUnwritten
deriving DecidableEq, Repr

/-- Why a step is refused. -/
inductive Refusal where
  /-- Raised by an arm of `exec` whose instruction has no meaning yet. Safe. -/
  | notModelled (mnemonic : String)
  /-- Raised by `step` when the fetched word is no instruction of the contract; R113 refuses it by name. Safe: no claim
  holds of a program that uses it. -/
  | outsideContract (reason : DecodeRefusal)
deriving DecidableEq, Repr

/-- The machine. `bank` and `priv` are the block's state (R30, R33); `params` is the block's argument (no step writes
it); `x`, `pc` and `mem` are the reference driver's (R231); `env` and `outs` are the model's own (log entries 2, 6). -/
structure State where
  /-- The CSR bank with the cycle counter. -/
  bank : Bank
  /-- The privilege latch. -/
  priv : Priv
  /-- The parameters of `spec/00_scope.md` section 3. -/
  params : Params
  /-- The driver's general registers; slot 0 is never read (`xRead`). -/
  x : Vector Word 32
  /-- The address of the driver's next instruction. -/
  pc : Word
  /-- The program store: addresses strictly rising, each below `2^32` (`Memory.wf`). -/
  mem : List Host.Cell
  /-- What the environment presents in the coming ticks, the next one first; idle when it runs out. -/
  env : List EnvTick
  /-- The outputs of the ticks of the last step, oldest first. -/
  outs : List TickOutputs
deriving DecidableEq, Repr

/-- "all registers zeroed except `misa`" (R400). -/
def Bank.reset : Bank where
  mstatus := 0
  medeleg := 0
  mideleg := 0
  mie := 0
  mtvec := 0
  mscratch := 0
  mepc := 0
  mcause := 0
  mtval := 0
  stvec := 0
  sscratch := 0
  sepc := 0
  scause := 0
  stval := 0
  satp := 0
  cyc := 0

/-- The state after reset with given parameters: R400 for the block. DESIGN CHOICE: the driver's registers are zero
and its first address is `Config.resetPc` (log entry 3), nothing is in the program store, and the environment is
idle (log entries 4, 19). -/
def State.resetWith (p : Params) : State where
  bank := Bank.reset
  priv := .machine
  params := p
  x := Vector.replicate 32 0
  pc := Config.resetPc
  mem := []
  env := []
  outs := []

/-- The state after reset with the spec's default parameters (R14 to R19, R400). -/
def State.reset : State := State.resetWith Config.defaults

end Sys2Proof.Machine
end

