-- ==== Sys2Proof/Machine/Operands.lean ====
section
/-!
DEFINITION. The values the block and the driver assemble: encodings of the privilege and of the decoded identity,
codes, the cause word, the handler address, the interrupt return address (`spec/30_encoding.md` R106,
`spec/60_exceptions.md` R311, R314, R322, R323), and the operands of the CSR instructions
(`spec/42_csr_instructions.md` R232 to R237).
-/

namespace Sys2Proof.Machine

/-- The privilege encoding of R30 and R101. -/
def privBits : Priv → BitVec 2
  | .user => 0b00
  | .supervisor => 0b01
  | .machine => 0b11

/-- The privilege a two-bit value encodes; `0b10` encodes none (R30, R114 (a)). -/
def privOfBits (b : BitVec 2) : Option Priv :=
  if b = 0b00#2 then some .user
  else if b = 0b01#2 then some .supervisor
  else if b = 0b11#2 then some .machine
  else none

/-- The 3-bit encoding of the decoded identity (R104). -/
def kindBits : InstrKind → BitVec 3
  | .none => 0
  | .ecall => 1
  | .ebreak => 2
  | .mret => 3
  | .sret => 4

/-- The identity a 3-bit value stands for; 5, 6 and 7 are treated as `NONE` (R104). -/
def kindOfBits (b : BitVec 3) : InstrKind :=
  if b = 1#3 then .ecall
  else if b = 2#3 then .ebreak
  else if b = 3#3 then .mret
  else if b = 4#3 then .sret
  else .none

/-- `EcallCode` of R202. -/
def ecallCode : Priv → Code
  | .user => 8
  | .supervisor => 9
  | .machine => 11

/-- The breakpoint code of R202 and R203. -/
def breakpointCode : Code := 3

/-- The illegal-instruction code of R211. -/
def illegalCode : Code := 2

/-- `IntCode` of R311: line 0, the timer, gives 7; any other line gives 11. -/
def intCode (irq : BitVec 32) : Code := if irq.getLsbD 0 then 7 else 11

/-- `Cause(intr, code) = intr ## code` (R322). -/
def causeWord (intr : Bool) (code : Code) : Word := BitVec.ofBool intr ++ code

/-- `Base` with two zero bits appended (R38). -/
def tvecBase (tvec : Word) : Word := tvec &&& 0xFFFFFFFC

/-- `Mode = 0b01`; the reserved modes read as Direct (R38). -/
def tvecVectored (tvec : Word) : Bool := tvec.extractLsb' 0 2 == 0b01#2

/-- `HandlerAddress` of R323. -/
def handlerAddress (tvec : Word) (intr : Bool) (code : Code) : Word :=
  if intr && tvecVectored tvec then tvecBase tvec + (code.setWidth 32 <<< 2) else tvecBase tvec

/-- `IntReturnAddress` of R314: "the address fetch would go to next". -/
def intReturnAddress (inp : TickInputs) : Word := if inp.jumpValid then inp.jumpTarget else inp.fetchPc

/-- The immediate of the `I` forms, `zext_32` (R111). -/
def zimmWord (zimm : BitVec 5) : Word := zimm.setWidth 32

/-- The new value of the set forms (R233, R236). -/
def csrSetBits (old src : Word) : Word := old ||| src

/-- The new value of the clear forms (R234, R237). -/
def csrClearBits (old src : Word) : Word := old &&& ~~~src

end Sys2Proof.Machine
end

