-- ==== Sys2Proof/Machine/Flags.lean ====
section
/-!
DEFINITION. The fields of `mstatus` (`spec/10_state.md` R34) and the four status words the controller computes: entry
into Machine and Supervisor (`spec/60_exceptions.md` R320, R321), return from each (`spec/41_system_instructions.md`
R205, R209). The block has no condition flags (R50).
-/

namespace Sys2Proof.Machine

/-- The word with bit `i` set to `b` and every other bit kept. -/
def putBit (w : Word) (i : Nat) (b : Bool) : Word :=
  if b then w ||| (1#32 <<< i) else w &&& ~~~(1#32 <<< i)

/-! ### The fields of R34 -/

/-- SIE, bit 1. -/
def statusSie (m : Word) : Bool := m.getLsbD 1

/-- MIE, bit 3. -/
def statusMie (m : Word) : Bool := m.getLsbD 3

/-- SPIE, bit 5. -/
def statusSpie (m : Word) : Bool := m.getLsbD 5

/-- MPIE, bit 7. -/
def statusMpie (m : Word) : Bool := m.getLsbD 7

/-- SPP, bit 8. -/
def statusSpp (m : Word) : Bool := m.getLsbD 8

/-- MPP, bits 12:11. -/
def statusMpp (m : Word) : BitVec 2 := m.extractLsb' 11 2

/-- MPRV, bit 17. -/
def statusMprv (m : Word) : Bool := m.getLsbD 17

/-- TSR, bit 22. -/
def statusTsr (m : Word) : Bool := m.getLsbD 22

/-- The word with MPP replaced. -/
def putMpp (m : Word) (v : BitVec 2) : Word := putBit (putBit m 11 (v.getLsbD 0)) 12 (v.getLsbD 1)

/-! ### The status words of trap entry and return -/

/-- Entry into Machine (R320): MPIE takes MIE, MIE is cleared, MPP takes the current privilege. -/
def statusEnterM (m : Word) (priv : Priv) : Word :=
  putMpp (putBit (putBit m 7 (statusMie m)) 3 false) (privBits priv)

/-- Entry into Supervisor (R321): SPIE takes SIE, SIE is cleared, SPP is 1 exactly when coming from Supervisor. -/
def statusEnterS (m : Word) (priv : Priv) : Word :=
  putBit (putBit (putBit m 5 (statusSie m)) 1 false) 8 (priv == .supervisor)

/-- Return from a machine trap to `np` (R205): MIE takes MPIE, MPIE is 1, MPP is User, and MPRV is cleared unless
`np` is Machine. -/
def statusReturnM (m : Word) (np : Priv) : Word :=
  putBit (putMpp (putBit (putBit m 3 (statusMpie m)) 7 true) 0b00) 17 (np == .machine && statusMprv m)

/-- Return from a supervisor trap (R209): SIE takes SPIE, SPIE is 1, SPP is User, MPRV is cleared. -/
def statusReturnS (m : Word) : Word :=
  putBit (putBit (putBit (putBit m 1 (statusSpie m)) 5 true) 8 false) 17 false

end Sys2Proof.Machine
end

