-- ==== Sys2Proof/Machine/CsrBank.lean ====
section
/-!
DEFINITION. The CSR map and the two port operations of `spec/40_csr_bank.md`: `CsrRead` (R152) and `ApplyOrdinary`
(R161), and the direct write (R164).
-/

namespace Sys2Proof.Machine

/-- The CSR numbers of R33. -/
def csrMap : List (CsrAddr × Csr) :=
  [ (0x100#12, .sstatus), (0x104#12, .sie), (0x105#12, .stvec), (0x140#12, .sscratch), (0x141#12, .sepc),
    (0x142#12, .scause), (0x143#12, .stval), (0x180#12, .satp), (0x300#12, .mstatus), (0x301#12, .misa),
    (0x302#12, .medeleg), (0x303#12, .mideleg), (0x304#12, .mie), (0x305#12, .mtvec), (0x340#12, .mscratch),
    (0x341#12, .mepc), (0x342#12, .mcause), (0x343#12, .mtval), (0xC00#12, .cycle), (0xC80#12, .cycleh) ]

/-- The register an address names, by exact match of all 12 bits (R102); `none` when it is unmapped. -/
def csrAt (a : CsrAddr) : Option Csr := csrMap.lookup a

/-- The value a register or view reads as (R152). -/
def csrValue (p : Params) (b : Bank) : Csr → Word
  | .sstatus => b.mstatus &&& p.sstatusMask
  | .sie => b.mie &&& p.sieMask
  | .stvec => b.stvec
  | .sscratch => b.sscratch
  | .sepc => b.sepc
  | .scause => b.scause
  | .stval => b.stval
  | .satp => b.satp
  | .mstatus => b.mstatus
  | .misa => p.misaValue
  | .medeleg => b.medeleg
  | .mideleg => b.mideleg
  | .mie => b.mie
  | .mtvec => b.mtvec
  | .mscratch => b.mscratch
  | .mepc => b.mepc
  | .mcause => b.mcause
  | .mtval => b.mtval
  | .cycle => b.cyc.extractLsb' 0 32
  | .cycleh => b.cyc.extractLsb' 32 32

/-- `CsrRead` of R152: an unmapped address reads as zero, and nothing is checked (R153). -/
def csrRead (p : Params) (b : Bank) (a : CsrAddr) : Word :=
  match csrAt a with
  | some c => csrValue p b c
  | none => 0

/-- The word a view's write leaves: the masked bits from the data, the others kept (R36, R42). -/
def maskedMerge (mask old data : Word) : Word := (old &&& ~~~mask) ||| (data &&& mask)

/-- The effect of an ordinary write on a mapped register or view (R161); `misa` and the counter ignore it (R45, R46). -/
def csrStore (p : Params) (b : Bank) (d : Word) : Csr → Bank
  | .sstatus => { b with mstatus := maskedMerge p.sstatusMask b.mstatus d }
  | .sie => { b with mie := maskedMerge p.sieMask b.mie d }
  | .stvec => { b with stvec := d }
  | .sscratch => { b with sscratch := d }
  | .sepc => { b with sepc := d }
  | .scause => { b with scause := d }
  | .stval => { b with stval := d }
  | .satp => { b with satp := d }
  | .mstatus => { b with mstatus := d }
  | .misa => b
  | .medeleg => { b with medeleg := d }
  | .mideleg => { b with mideleg := d }
  | .mie => { b with mie := d }
  | .mtvec => { b with mtvec := d }
  | .mscratch => { b with mscratch := d }
  | .mepc => { b with mepc := d }
  | .mcause => { b with mcause := d }
  | .mtval => { b with mtval := d }
  | .cycle => b
  | .cycleh => b

/-- `ApplyOrdinary` of R161: at most one register changes, and a write to an unmapped address is ignored. -/
def applyOrdinary (p : Params) (b : Bank) : Option (CsrAddr × Word) → Bank
  | none => b
  | some (a, d) =>
    match csrAt a with
    | some c => csrStore p b d c
    | none => b

/-- The direct write of R164: exactly the seven registers of `DIRECT_SET`. -/
def applyDirect (b : Bank) (v : DirectWrite) : Bank :=
  { b with mstatus := v.mstatus, mepc := v.mepc, mcause := v.mcause, mtval := v.mtval,
           sepc := v.sepc, scause := v.scause, stval := v.stval }

/-- The tick's ordinary write (R150). -/
def ordinaryWrite (inp : TickInputs) : Option (CsrAddr × Word) :=
  if inp.csrWEn then some (inp.csrWAddr, inp.csrWData) else none

/-- The forwarded snapshot of a tick (R155). -/
def snapshot (p : Params) (b : Bank) (inp : TickInputs) : Bank := applyOrdinary p b (ordinaryWrite inp)

/-- The bank a tick leaves: the direct write over the stored bank (`DROP`) or over the snapshot (`KEEP_UNTOUCHED`)
(R160, R166), else the snapshot (R162, R163), with the counter advanced (R175). -/
def commitBank (p : Params) (b : Bank) (inp : TickInputs) : Option DirectWrite → Bank
  | some v =>
    match p.ordinaryWriteOnTrapTick with
    | .drop => { applyDirect b v with cyc := b.cyc + 1 }
    | .keepUntouched => { applyDirect (snapshot p b inp) v with cyc := b.cyc + 1 }
  | none => { snapshot p b inp with cyc := b.cyc + 1 }

/-- `SatpEnableCommitted` of R181. -/
def satpEnableCommitted (p : Params) (b : Bank) (w : Option (CsrAddr × Word)) (dw : Option DirectWrite) : Bool :=
  match w with
  | none => false
  | some (a, d) =>
    a == 0x180#12 && (dw.isNone || p.ordinaryWriteOnTrapTick == .keepUntouched)
      && !b.satp.getLsbD 31 && d.getLsbD 31

end Sys2Proof.Machine
end

