-- ==== Sys2Proof/WellFormed.lean ====
section
/-!
DEFINITION. Which terms of `Instr` an encoding exists for: the register fields `rd` and `rs1` are five bits wide
(`spec/30_encoding.md` R110), so a register number is below 32 (`x0`..`x31`, R116).
-/

namespace Sys2Proof

/-- A general-register number of the contract, `x0`..`x31` (R116). -/
def regOk (r : Nat) : Bool := decide (r < 32)

/-- The instruction has an encoding: its register numbers fit the five-bit fields of R110. -/
def Instr.wf : Instr → Bool
  | .ecall => true
  | .ebreak => true
  | .sret => true
  | .mret => true
  | .csrrw rd _ rs1 => regOk rd && regOk rs1
  | .csrrs rd _ rs1 => regOk rd && regOk rs1
  | .csrrc rd _ rs1 => regOk rd && regOk rs1
  | .csrrwi rd _ _ => regOk rd
  | .csrrsi rd _ _ => regOk rd
  | .csrrci rd _ _ => regOk rd

end Sys2Proof
end

