-- ==== Sys2Proof/Decode.lean ====
section
/-!
DEFINITION. The decoder, total on any bytes and refusing by name, and the encoder beside it, both from the I-type
SYSTEM layout of `spec/30_encoding.md` R110 to R113. The bytes of a word lie in little-endian order (R81; log entry 8).
-/

namespace Sys2Proof

/-! ### The fields of an instruction word (R110) -/

/-- `inst[6:0]`. -/
def opcodeField (w : Word) : BitVec 7 := w.extractLsb' 0 7

/-- `inst[11:7]`, as a register number. -/
def rdField (w : Word) : Nat := (w.extractLsb' 7 5).toNat

/-- `inst[14:12]`. -/
def funct3Field (w : Word) : BitVec 3 := w.extractLsb' 12 3

/-- `inst[19:15]`, as a register number. -/
def rs1Field (w : Word) : Nat := (w.extractLsb' 15 5).toNat

/-- `inst[19:15]`, as the immediate of the `I` forms (R111). -/
def zimmField (w : Word) : BitVec 5 := w.extractLsb' 15 5

/-- `inst[31:20]`, the CSR address or the function code (R111). -/
def csrField (w : Word) : CsrAddr := w.extractLsb' 20 12

/-! ### The decoder -/

/-- The privileged group, selected by `funct12` (R112). -/
def decodePrivileged (funct12 : BitVec 12) : Except DecodeRefusal Instr :=
  if funct12 = 0x000#12 then .ok .ecall
  else if funct12 = 0x001#12 then .ok .ebreak
  else if funct12 = 0x102#12 then .ok .sret
  else if funct12 = 0x302#12 then .ok .mret
  else .error .privilegedUnlisted

/-- The opcode map of R112 on a whole word. -/
def decodeWord (w : Word) : Except DecodeRefusal Instr :=
  if opcodeField w ≠ 0x73#7 then .error .notSystem
  else if funct3Field w = 0b000#3 then
    if rdField w = 0 ∧ rs1Field w = 0 then decodePrivileged (csrField w) else .error .privilegedUnlisted
  else if funct3Field w = 0b001#3 then .ok (.csrrw (rdField w) (csrField w) (rs1Field w))
  else if funct3Field w = 0b010#3 then .ok (.csrrs (rdField w) (csrField w) (rs1Field w))
  else if funct3Field w = 0b011#3 then .ok (.csrrc (rdField w) (csrField w) (rs1Field w))
  else if funct3Field w = 0b100#3 then .error .funct3Unused
  else if funct3Field w = 0b101#3 then .ok (.csrrwi (rdField w) (csrField w) (zimmField w))
  else if funct3Field w = 0b110#3 then .ok (.csrrsi (rdField w) (csrField w) (zimmField w))
  else .ok (.csrrci (rdField w) (csrField w) (zimmField w))

/-- The word whose bytes, lowest address first, are these four (little-endian, R81). -/
def wordOfBytes (b0 b1 b2 b3 : Byte) : Word := b3 ++ b2 ++ b1 ++ b0

/-- The four bytes of a word, lowest address first (little-endian, R81). -/
def bytesOfWord (w : Word) : List Byte :=
  [w.extractLsb' 0 8, w.extractLsb' 8 8, w.extractLsb' 16 8, w.extractLsb' 24 8]

/-- Decode the instruction at the front of the bytes: all ten are 32 bits long (R110, R115). -/
def decode : List Byte → Except DecodeRefusal (Instr × List Byte)
  | b0 :: b1 :: b2 :: b3 :: rest =>
    match decodeWord (wordOfBytes b0 b1 b2 b3) with
    | .ok i => .ok (i, rest)
    | .error r => .error r
  | _ => .error .truncated

/-! ### The encoder -/

/-- Assemble `inst[31:20] inst[19:15] inst[14:12] inst[11:7] 1110011` (R110). -/
def systemWord (csr : BitVec 12) (rs1 : BitVec 5) (funct3 : BitVec 3) (rd : BitVec 5) : Word :=
  csr ++ rs1 ++ funct3 ++ rd ++ 0b1110011#7

/-- The word of an instruction (R110, R112). -/
def encode : Instr → Word
  | .ecall => systemWord 0x000 0 0b000 0
  | .ebreak => systemWord 0x001 0 0b000 0
  | .sret => systemWord 0x102 0 0b000 0
  | .mret => systemWord 0x302 0 0b000 0
  | .csrrw rd csr rs1 => systemWord csr (BitVec.ofNat 5 rs1) 0b001 (BitVec.ofNat 5 rd)
  | .csrrs rd csr rs1 => systemWord csr (BitVec.ofNat 5 rs1) 0b010 (BitVec.ofNat 5 rd)
  | .csrrc rd csr rs1 => systemWord csr (BitVec.ofNat 5 rs1) 0b011 (BitVec.ofNat 5 rd)
  | .csrrwi rd csr zimm => systemWord csr zimm 0b101 (BitVec.ofNat 5 rd)
  | .csrrsi rd csr zimm => systemWord csr zimm 0b110 (BitVec.ofNat 5 rd)
  | .csrrci rd csr zimm => systemWord csr zimm 0b111 (BitVec.ofNat 5 rd)

/-- The bytes of an instruction as the program store holds them. -/
def encodeBytes (i : Instr) : List Byte := bytesOfWord (encode i)

/-- The instruction the decoder reads from a table row's bits: the low `nbits` bits of `w`, every bit above them 0,
laid out as the program store holds an instruction. -/
def decodeTableWord (nbits w : Nat) : Option Instr :=
  match decode (bytesOfWord (BitVec.ofNat 32 (w % 2 ^ nbits))) with
  | .ok (i, _) => some i
  | .error _ => none

end Sys2Proof
end

