-- ==== Sys2Proof/Machine/Memory.lean ====
section
/-!
DEFINITION. The driver's program store: bytes by address, strictly rising. The block itself makes no memory access
(`spec/20_memory.md` R80); the store is what the driver of `spec/42_csr_instructions.md` R231 fetches from. What an
address nobody has written reads as is `none` (log entry 4).
-/

namespace Sys2Proof.Machine

/-- The canonical form: addresses strictly rising from `lo` on, each below `2^32`. -/
def Memory.wfFrom : Nat → List Host.Cell → Bool
  | _, [] => true
  | lo, (a, _) :: rest => decide (lo ≤ a) && decide (a < 2 ^ 32) && Memory.wfFrom (a + 1) rest

/-- The canonical form of the whole store. -/
def Memory.wf (m : List Host.Cell) : Bool := Memory.wfFrom 0 m

/-- The byte at an address: `none` where nothing has been written. -/
def Memory.read (m : List Host.Cell) (a : Nat) : Option Byte := m.lookup a

/-- Store one byte, keeping the addresses strictly rising. -/
def Memory.write : List Host.Cell → Nat → Byte → List Host.Cell
  | [], a, b => [(a, b)]
  | (a', b') :: rest, a, b =>
    if a < a' then (a, b) :: (a', b') :: rest
    else if a = a' then (a, b) :: rest
    else (a', b') :: Memory.write rest a b

/-- Store bytes at consecutive addresses, modulo `2^32`. -/
def Memory.writeBytes (m : List Host.Cell) (a : Word) : List Byte → List Host.Cell
  | [] => m
  | b :: bs => Memory.writeBytes (Memory.write m a.toNat b) (a + 1) bs

/-- The `n` bytes from an address on, modulo `2^32`; `none` when one of them was never written. -/
def Memory.readBytes (m : List Host.Cell) (a : Word) : Nat → Option (List Byte)
  | 0 => some []
  | n + 1 =>
    match Memory.read m a.toNat, Memory.readBytes m (a + 1) n with
    | some b, some bs => some (b :: bs)
    | _, _ => none

/-- The driver's fetch: the four bytes at `pc`, whatever its low bits (R83; log entry 7). DESIGN CHOICE: `pc` is the
store's address untranslated, also while `mmu_enable` is 1; R87 leaves the translation outside (log entry 20). -/
def fetch (s : State) : Except Fault (List Byte) :=
  match Memory.readBytes s.mem s.pc 4 with
  | some bs => .ok bs
  | none => .error .fetchUnwritten

end Sys2Proof.Machine
end

