-- ==== Sys2Proof/Machine/Ops.lean ====
section
/-!
DEFINITION. The Trap Controller (`spec/60_exceptions.md`), taking a trap and returning from one, the tick of
`spec/40_csr_bank.md` R150, and the reference driver's ticks over the machine's state
(`spec/42_csr_instructions.md` R231).
-/

namespace Sys2Proof.Machine

/-! ### Arbitration -/

/-- `IntTaken` of R312: the interrupt gate. -/
def intTaken (p : Params) (priv : Priv) (snap : Bank) (c : Code) : Bool :=
  match priv with
  | .machine => !snap.mideleg.getLsbD c.toNat && statusMie snap.mstatus
  | .supervisor =>
    if snap.mideleg.getLsbD c.toNat then statusSie snap.mstatus
    else p.intGateBelowM == .always || statusSie snap.mstatus
  | .user => true

/-- `Arbitrate` of R300: the first true condition wins. -/
def arbitrate (p : Params) (priv : Priv) (snap : Bank) (inp : TickInputs) : Decision :=
  if inp.idExcValid then .excTrap inp.idExcCode inp.idPc 0
  else if p.envFromIdentity && kindOfBits inp.instrKind == .ecall then .excTrap (ecallCode priv) inp.idPc 0
  else if p.envFromIdentity && kindOfBits inp.instrKind == .ebreak then .excTrap breakpointCode inp.idPc 0
  else if inp.memExcValid then .excTrap inp.memExcCode inp.memPc 0
  else if inp.mmuExcValid then .excTrap inp.mmuExcCode inp.mmuPc inp.mmuTval
  else if inp.irq != 0 && intTaken p priv snap (intCode inp.irq) then
    .intTrap (intCode inp.irq) (intReturnAddress inp)
  else if kindOfBits inp.instrKind == .mret then .mret
  else if kindOfBits inp.instrKind == .sret then
    if priv == .supervisor && statusTsr snap.mstatus then
      match p.tsrSretMode with
      | .illegal => .excTrap illegalCode inp.idPc 0
      | .noop => .noTrap
    else .sret
  else .noTrap

/-- `ExcTarget` of R304. -/
def excTarget (priv : Priv) (snap : Bank) (c : Code) : Priv :=
  if priv != .machine && decide (c.toNat < 32) && snap.medeleg.getLsbD c.toNat then .supervisor else .machine

/-- `IntTarget` of R313. -/
def intTarget (priv : Priv) (snap : Bank) (c : Code) : Priv :=
  if priv != .machine && snap.mideleg.getLsbD c.toNat then .supervisor else .machine

/-! ### Taking a trap, and returning from one -/

/-- `TrapEnterM` of R320. -/
def trapEnterM (priv : Priv) (snap : Bank) (intr : Bool) (code : Code) (epc tval : Word) : Effect where
  dw := some { mstatus := statusEnterM snap.mstatus priv, mepc := epc, mcause := causeWord intr code, mtval := tval,
               sepc := snap.sepc, scause := snap.scause, stval := snap.stval }
  redirectValid := true
  redirectTarget := handlerAddress snap.mtvec intr code
  newPriv := .machine

/-- `TrapEnterS` of R321. -/
def trapEnterS (priv : Priv) (snap : Bank) (intr : Bool) (code : Code) (epc tval : Word) : Effect where
  dw := some { mstatus := statusEnterS snap.mstatus priv, mepc := snap.mepc, mcause := snap.mcause,
               mtval := snap.mtval, sepc := epc, scause := causeWord intr code, stval := tval }
  redirectValid := true
  redirectTarget := handlerAddress snap.stvec intr code
  newPriv := .supervisor

/-- Taking a trap, the ONE operation: into Supervisor when that is the target mode, into Machine otherwise (R324). -/
def takeTrap (target priv : Priv) (snap : Bank) (intr : Bool) (code : Code) (epc tval : Word) : Effect :=
  match target with
  | .supervisor => trapEnterS priv snap intr code epc tval
  | _ => trapEnterM priv snap intr code epc tval

/-- The direct write of a return: `mstatus` anew, every other register its snapshot value (R165). -/
def returnWrite (snap : Bank) (ms : Word) : DirectWrite where
  mstatus := ms
  mepc := snap.mepc
  mcause := snap.mcause
  mtval := snap.mtval
  sepc := snap.sepc
  scause := snap.scause
  stval := snap.stval

/-- `ReturnFromM` of R205, with the model fault of R206. -/
def returnFromM (snap : Bank) : Except Fault Effect :=
  match privOfBits (statusMpp snap.mstatus) with
  | some np => .ok { dw := some (returnWrite snap (statusReturnM snap.mstatus np)), redirectValid := true,
                     redirectTarget := snap.mepc, newPriv := np }
  | none => .error .reservedMPP

/-- The privilege an SRET restores (R209). -/
def sretPriv (snap : Bank) : Priv := if statusSpp snap.mstatus then .supervisor else .user

/-- `ReturnFromS` of R209. -/
def returnFromS (snap : Bank) : Effect where
  dw := some (returnWrite snap (statusReturnS snap.mstatus))
  redirectValid := true
  redirectTarget := snap.sepc
  newPriv := sretPriv snap

/-- `Effect` of R324. -/
def effect (dec : Decision) (priv : Priv) (snap : Bank) : Except Fault Effect :=
  match dec with
  | .excTrap c epc tval => .ok (takeTrap (excTarget priv snap c) priv snap false c epc tval)
  | .intTrap c epc => .ok (takeTrap (intTarget priv snap c) priv snap true c epc 0)
  | .mret => returnFromM snap
  | .sret => .ok (returnFromS snap)
  | .noTrap => .ok { dw := none, redirectValid := false, redirectTarget := 0, newPriv := priv }

/-! ### The tick -/

/-- The outputs of a tick whose effect is `e` (R150, R52, R180, R181). -/
def tickOutputs (p : Params) (b : Bank) (priv : Priv) (inp : TickInputs) (e : Effect) : TickOutputs where
  redirectValid := e.redirectValid
  redirectTarget := if e.redirectValid then e.redirectTarget else 0
  priv := privBits priv
  mmuEnable := b.satp.getLsbD 31
  startPaging := satpEnableCommitted p b (ordinaryWrite inp) e.dw
  csrRData := csrRead p (snapshot p b inp) inp.csrRAddr

/-- The commit of an effect: the outputs, the next bank and the next privilege (R150, R89, R170). -/
def commit (p : Params) (b : Bank) (priv : Priv) (inp : TickInputs) (e : Effect) : TickResult where
  out := tickOutputs p b priv inp e
  bank := commitBank p b inp e.dw
  priv := e.newPriv

/-- `Tick` of R150; a faulting effect commits nothing (R185). -/
def tick (p : Params) (b : Bank) (priv : Priv) (inp : TickInputs) : Except Fault TickResult :=
  match effect (arbitrate p priv (snapshot p b inp) inp) priv (snapshot p b inp) with
  | .error f => .error f
  | .ok e => .ok (commit p b priv inp e)

/-! ### The driver's registers -/

/-- `x[r]`; `x0` reads as zero (`spec/42_csr_instructions.md`, its opening), and so would a number above 31, which no
word encodes (log entry 15). -/
def xRead (s : State) (r : Nat) : Word := if r = 0 then 0 else (s.x[r]?).getD 0

/-- `x[r] <- v`; a write to `x0` is ignored. -/
def xWrite (s : State) (r : Nat) (v : Word) : State :=
  { s with x := if r = 0 then s.x else s.x.setIfInBounds r v }

/-! ### The driver's ticks -/

/-- What the environment presents in the driver's next instruction tick: idle when it says nothing (R231). -/
def envInputs : List EnvTick → TickInputs
  | .beside inp :: _ => inp
  | _ => TickInputs.idle

/-- The environment's coming ticks after an instruction tick. -/
def envAfter : List EnvTick → List EnvTick
  | .beside _ :: rest => rest
  | env => env

/-- Where fetch goes after a tick: the redirect target (R340), else the jump target of a jump asserted in the tick
(R314), else `fallthrough` (log entry 12). -/
def nextFetch (fallthrough : Word) (inp : TickInputs) (out : TickOutputs) : Word :=
  if out.redirectValid then out.redirectTarget
  else if inp.jumpValid then inp.jumpTarget
  else fallthrough

/-- The state after one tick with these inputs: the block's commit, the driver's next address, and the tick's outputs
after those of the step's earlier ticks. -/
def State.afterTick (s : State) (env : List EnvTick) (fallthrough : Word) (earlier : List TickOutputs)
    (inp : TickInputs) (r : TickResult) : State :=
  { s with bank := r.bank, priv := r.priv, env := env, pc := nextFetch fallthrough inp r.out,
           outs := earlier ++ [r.out] }

/-- The inputs of the one tick of ECALL, EBREAK, MRET and SRET at address `pc` (R231; log entry 18). -/
def controlInputs (k : InstrKind) (s : State) : TickInputs :=
  { envInputs s.env with instrKind := kindBits k, idPc := s.pc, fetchPc := s.pc + 4 }

/-- A control instruction: one tick that presents its identity (R200, R231). -/
def execControl (k : InstrKind) (s : State) : Host.Outcome State Fault Refusal :=
  match tick s.params s.bank s.priv (controlInputs k s) with
  | .error f => .fault f
  | .ok r => .next (s.afterTick (envAfter s.env) (s.pc + 4) [] (controlInputs k s) r)

/-- The inputs of the read tick of a CSR instruction at `p` (R231). -/
def csrReadInputs (env : List EnvTick) (p : Word) (csr : CsrAddr) : TickInputs :=
  { envInputs env with instrKind := kindBits .none, fetchPc := p + 4, csrWEn := false, csrWAddr := 0, csrWData := 0,
                       csrRAddr := csr }

/-- The inputs of the write tick of a CSR instruction at `p` (R231; log entry 18). -/
def csrWriteInputs (env : List EnvTick) (p : Word) (csr : CsrAddr) (we : Bool) (new : Word) : TickInputs :=
  { envInputs env with instrKind := kindBits .none, fetchPc := p + 4, csrWEn := we, csrWAddr := csr, csrWData := new,
                       csrRAddr := 0x000 }

/-- The write tick of the CSR instruction at `p`, after its read tick has left `s`. -/
def csrWriteTick (p : Word) (csr : CsrAddr) (we : Bool) (new : Word) (s : State) :
    Host.Outcome State Fault Refusal :=
  match tick s.params s.bank s.priv (csrWriteInputs s.env p csr we new) with
  | .error f => .fault f
  | .ok r => .next (s.afterTick (envAfter s.env) s.pc s.outs (csrWriteInputs s.env p csr we new) r)

/-- After the read tick `r` of the CSR instruction at `s.pc`: the tick's commit, then `x[rd] <- old` (R231). -/
def State.afterCsrRead (s : State) (rd : Nat) (csr : CsrAddr) (r : TickResult) : State :=
  xWrite (s.afterTick (envAfter s.env) (s.pc + 4) [] (csrReadInputs s.env s.pc csr) r) rd r.out.csrRData

/-- A CSR instruction: the read tick, `x[rd] <- old`, then the write tick, whatever the read tick decided (R231; log
entry 5). `new` is computed from `old` before `x[rd]` is written (R232). -/
def execCsr (rd : Nat) (csr : CsrAddr) (we : Bool) (new : Word → Word) (s : State) :
    Host.Outcome State Fault Refusal :=
  match tick s.params s.bank s.priv (csrReadInputs s.env s.pc csr) with
  | .error f => .fault f
  | .ok r => csrWriteTick s.pc csr we (new r.out.csrRData) (s.afterCsrRead rd csr r)

/-- The inputs of a tick in which the driver issues no instruction: the identity is `NONE` (R104), `fetch_pc` is the
address of the next instruction (`spec/95_test_vectors.md` L3), and every other port is the environment's. -/
def idleInputs (inp : TickInputs) (s : State) : TickInputs :=
  { inp with instrKind := kindBits .none, fetchPc := s.pc }

/-- A tick in which the driver issues no instruction, `rest` being the environment's ticks after it. -/
def idleTick (inp : TickInputs) (rest : List EnvTick) (s : State) : Host.Outcome State Fault Refusal :=
  match tick s.params s.bank s.priv (idleInputs inp s) with
  | .error f => .fault f
  | .ok r => .next (s.afterTick rest s.pc [] (idleInputs inp s) r)

end Sys2Proof.Machine
end

