-- ==== Sys2Proof/Machine/Csr.lean ====
section
/-!
DEFINITION. The six CSR instructions (`spec/42_csr_instructions.md` R232 to R237): the operand, whether a write is
presented, and the new value, over the driver's two ticks (R231).
-/

namespace Sys2Proof.Machine

/-- CSRRW (R232): the new value is `x[rs1]`, always written. -/
def execCsrrw (rd : Nat) (csr : CsrAddr) (rs1 : Nat) (s : State) : Host.Outcome State Fault Refusal :=
  execCsr rd csr true (fun _ => xRead s rs1) s

/-- CSRRS (R233): the bits of `x[rs1]` are set; `rs1 = x0` presents no write. -/
def execCsrrs (rd : Nat) (csr : CsrAddr) (rs1 : Nat) (s : State) : Host.Outcome State Fault Refusal :=
  execCsr rd csr (rs1 != 0) (fun old => csrSetBits old (xRead s rs1)) s

/-- CSRRC (R234): the bits of `x[rs1]` are cleared; `rs1 = x0` presents no write. -/
def execCsrrc (rd : Nat) (csr : CsrAddr) (rs1 : Nat) (s : State) : Host.Outcome State Fault Refusal :=
  execCsr rd csr (rs1 != 0) (fun old => csrClearBits old (xRead s rs1)) s

/-- CSRRWI (R235): the new value is the zero-extended immediate, always written. -/
def execCsrrwi (rd : Nat) (csr : CsrAddr) (zimm : BitVec 5) (s : State) : Host.Outcome State Fault Refusal :=
  execCsr rd csr true (fun _ => zimmWord zimm) s

/-- CSRRSI (R236): the bits of the immediate are set; `zimm = 0` presents no write. -/
def execCsrrsi (rd : Nat) (csr : CsrAddr) (zimm : BitVec 5) (s : State) : Host.Outcome State Fault Refusal :=
  execCsr rd csr (zimm != 0) (fun old => csrSetBits old (zimmWord zimm)) s

/-- CSRRCI (R237): the bits of the immediate are cleared; `zimm = 0` presents no write. -/
def execCsrrci (rd : Nat) (csr : CsrAddr) (zimm : BitVec 5) (s : State) : Host.Outcome State Fault Refusal :=
  execCsr rd csr (zimm != 0) (fun old => csrClearBits old (zimmWord zimm)) s

end Sys2Proof.Machine
end

