-- ==== Sys2Proof/Machine/System.lean ====
section
/-!
DEFINITION. The control instructions ECALL, EBREAK, SRET and MRET (`spec/41_system_instructions.md`): each presents
its decoded identity in one tick (`spec/42_csr_instructions.md` R231), and the block's arbitration gives it its effect.
-/

namespace Sys2Proof.Machine

/-- ECALL (R201): with no higher condition it raises the environment-call exception of the current privilege. -/
def execEcall (s : State) : Host.Outcome State Fault Refusal := execControl .ecall s

/-- EBREAK (R203): with no higher condition it raises the breakpoint exception. -/
def execEbreak (s : State) : Host.Outcome State Fault Refusal := execControl .ebreak s

/-- SRET (R208, R209), with the TSR case of R211. -/
def execSret (s : State) : Host.Outcome State Fault Refusal := execControl .sret s

/-- MRET (R204, R205), with the model fault of R206 where MPP is `0b10`. -/
def execMret (s : State) : Host.Outcome State Fault Refusal := execControl .mret s

end Sys2Proof.Machine
end

