-- ==== Sys2Proof/Machine/Step.lean ====
section
/-!
DEFINITION. One step: a tick in which the driver issues no instruction, where the environment has one next, else the
fetch of the word at `pc`, its decoding and its execution (`spec/42_csr_instructions.md` R231).
-/

namespace Sys2Proof.Machine

/-- Fetch at `pc`, decode, execute. A word outside the contract is refused by name (R113; log entry 13). -/
def runNext (s : State) : Host.Outcome State Fault Refusal :=
  match fetch s with
  | .error f => .fault f
  | .ok bytes =>
    match decode bytes with
    | .error r => .refused (.outsideContract r)
    | .ok (i, _) => exec i s

/-- One step of the machine: an instruction with all its ticks, or one tick without an instruction (log entry 11). -/
def step (s : State) : Host.Outcome State Fault Refusal :=
  match s.env with
  | .noInstruction inp :: rest => idleTick inp rest s
  | _ => runNext s

/-- The environment with the ticks without an instruction that stand before its next instruction tick left out. -/
def dropIdleTicks : List EnvTick → List EnvTick
  | .noInstruction _ :: rest => dropIdleTicks rest
  | env => env

/-- `s` with the instruction whose low `nbits` bits are those of `w` stored at `pc`, little-endian, and with no tick
without an instruction before it, so that the very next step runs it (log entry 10). -/
def State.withFetchWord (s : State) (nbits w : Nat) : State :=
  { s with mem := Memory.writeBytes s.mem s.pc (bytesOfWord (BitVec.ofNat 32 (w % 2 ^ nbits))),
           env := dropIdleTicks s.env }

end Sys2Proof.Machine
end

