-- ==== Sys2Proof/Safety.lean ====
section
/-!
DEFINITION. The terms in which claims about the machine are stated: what the environment must not do for an instruction
to run undisturbed, what a trap entry and a return leave in `mstatus` bit by bit (`spec/10_state.md` R34), the registers
outside the direct write, runs of ticks, and the invariant every step keeps.
-/

namespace Sys2Proof.Machine

/-! ### What the environment presents -/

/-- No exception flag of the three stages is raised (conditions 1 to 3 of R300, the identities apart). -/
def noFlag (inp : TickInputs) : Bool := !inp.idExcValid && !inp.memExcValid && !inp.mmuExcValid

/-- No exception flag, no interrupt line and no jump: nothing but the driver's instruction is presented. -/
def quiet (inp : TickInputs) : Bool := noFlag inp && inp.irq == 0 && !inp.jumpValid

/-- The decoded identity raises no exception of the block's own making (R202). -/
def noEnvKind (p : Params) (inp : TickInputs) : Bool :=
  !p.envFromIdentity || (kindOfBits inp.instrKind != .ecall && kindOfBits inp.instrKind != .ebreak)

/-- Condition 4 of R300 does not hold. -/
def noInterrupt (p : Params) (priv : Priv) (snap : Bank) (inp : TickInputs) : Bool :=
  inp.irq == 0 || !intTaken p priv snap (intCode inp.irq)

/-- Both ticks of a CSR instruction are quiet. -/
def quietCsr (s : State) : Bool := quiet (envInputs s.env) && quiet (envInputs (envAfter s.env))

/-! ### `mstatus`, bit by bit -/

/-- `m'` is `m` after entry into Machine from `priv` (R320). -/
def MachineEntryStatus (priv : Priv) (m m' : Word) : Prop :=
  m'.getLsbD 7 = m.getLsbD 3 ∧ m'.getLsbD 3 = false ∧ m'.extractLsb' 11 2 = privBits priv ∧
    ∀ i, i ∉ [3, 7, 11, 12] → m'.getLsbD i = m.getLsbD i

/-- `m'` is `m` after entry into Supervisor from `priv` (R321). -/
def SupervisorEntryStatus (priv : Priv) (m m' : Word) : Prop :=
  m'.getLsbD 5 = m.getLsbD 1 ∧ m'.getLsbD 1 = false ∧ m'.getLsbD 8 = (priv == .supervisor) ∧
    ∀ i, i ∉ [1, 5, 8] → m'.getLsbD i = m.getLsbD i

/-- `m'` is `m` after a return from a machine trap to `np` (R205). -/
def MachineReturnStatus (np : Priv) (m m' : Word) : Prop :=
  m'.getLsbD 3 = m.getLsbD 7 ∧ m'.getLsbD 7 = true ∧ m'.extractLsb' 11 2 = 0b00#2 ∧
    m'.getLsbD 17 = (np == .machine && m.getLsbD 17) ∧
    ∀ i, i ∉ [3, 7, 11, 12, 17] → m'.getLsbD i = m.getLsbD i

/-- `m'` is `m` after a return from a supervisor trap (R209). -/
def SupervisorReturnStatus (m m' : Word) : Prop :=
  m'.getLsbD 1 = m.getLsbD 5 ∧ m'.getLsbD 5 = true ∧ m'.getLsbD 8 = false ∧ m'.getLsbD 17 = false ∧
    ∀ i, i ∉ [1, 5, 8, 17] → m'.getLsbD i = m.getLsbD i

/-! ### What a trap and a return leave -/

/-- The block after a trap into Machine (R320): the snapshot is what the controller read. -/
def EnteredMachine (priv : Priv) (snap : Bank) (intr : Bool) (code : Code) (epc tval : Word)
    (b' : Bank) (priv' : Priv) (target : Word) : Prop :=
  priv' = .machine ∧ b'.mepc = epc ∧ b'.mcause = causeWord intr code ∧ b'.mtval = tval ∧
    MachineEntryStatus priv snap.mstatus b'.mstatus ∧
    b'.sepc = snap.sepc ∧ b'.scause = snap.scause ∧ b'.stval = snap.stval ∧
    target = handlerAddress snap.mtvec intr code

/-- The block after a trap into Supervisor (R321). -/
def EnteredSupervisor (priv : Priv) (snap : Bank) (intr : Bool) (code : Code) (epc tval : Word)
    (b' : Bank) (priv' : Priv) (target : Word) : Prop :=
  priv' = .supervisor ∧ b'.sepc = epc ∧ b'.scause = causeWord intr code ∧ b'.stval = tval ∧
    SupervisorEntryStatus priv snap.mstatus b'.mstatus ∧
    b'.mepc = snap.mepc ∧ b'.mcause = snap.mcause ∧ b'.mtval = snap.mtval ∧
    target = handlerAddress snap.stvec intr code

/-- The block after an exception of its target mode: Supervisor when the privilege is below Machine and the code's
`medeleg` bit is set, Machine otherwise (R304). -/
def TookException (priv : Priv) (snap : Bank) (code : Code) (epc tval : Word)
    (b' : Bank) (priv' : Priv) (target : Word) : Prop :=
  if priv ≠ .machine ∧ code.toNat < 32 ∧ snap.medeleg.getLsbD code.toNat = true then
    EnteredSupervisor priv snap false code epc tval b' priv' target
  else EnteredMachine priv snap false code epc tval b' priv' target

/-- The six trap registers other than `mstatus` are as in the snapshot (R165). -/
def TrapRegistersKept (snap b' : Bank) : Prop :=
  b'.mepc = snap.mepc ∧ b'.mcause = snap.mcause ∧ b'.mtval = snap.mtval ∧
    b'.sepc = snap.sepc ∧ b'.scause = snap.scause ∧ b'.stval = snap.stval

/-- The eight stored registers outside `DIRECT_SET` (R166) agree. -/
def SameOutsideDirectSet (b b' : Bank) : Prop :=
  b'.mtvec = b.mtvec ∧ b'.stvec = b.stvec ∧ b'.medeleg = b.medeleg ∧ b'.mideleg = b.mideleg ∧
    b'.mie = b.mie ∧ b'.mscratch = b.mscratch ∧ b'.sscratch = b.sscratch ∧ b'.satp = b.satp

/-- What an instruction that writes no general register leaves unchanged outside the block: the general registers,
the parameters and every byte of the program store. -/
def DriverKept (s t : State) : Prop :=
  (∀ r, xRead t r = xRead s r) ∧ t.params = s.params ∧ ∀ a, Memory.read t.mem a = Memory.read s.mem a

/-- `mstatus` bits that trap logic never writes (R34: the reserved bits, and TSR). -/
def untrappedStatusBits : List Nat :=
  [0, 2, 4, 6, 9, 10, 13, 14, 15, 16, 18, 19, 20, 21, 22, 23, 24, 25, 26, 27, 28, 29, 30, 31]

/-- What a trap taken from `priv` leaves of the direct-write set from the snapshot `snap`: the three registers of the mode
not entered, and every `mstatus` bit that the entry of R320 or R321 does not set (R165, R421 (a)). -/
def TrapLeavesFromSnapshot (priv : Priv) (snap b' : Bank) (priv' : Priv) : Prop :=
  (priv' = .machine → MachineEntryStatus priv snap.mstatus b'.mstatus ∧
      b'.sepc = snap.sepc ∧ b'.scause = snap.scause ∧ b'.stval = snap.stval) ∧
    (priv' = .supervisor → SupervisorEntryStatus priv snap.mstatus b'.mstatus ∧
      b'.mepc = snap.mepc ∧ b'.mcause = snap.mcause ∧ b'.mtval = snap.mtval)

/-- What a CSR instruction leaves outside the block: `x[rd]` is the old value of the CSR, unless `rd` is `x0`, and every
other general register, the parameters and every byte of the program store are unchanged. -/
def DriverWroteRd (rd : Nat) (old : Word) (s t : State) : Prop :=
  (∀ r, r < 32 → xRead t r = if r = rd ∧ r ≠ 0 then old else xRead s r) ∧
    t.params = s.params ∧ ∀ a, Memory.read t.mem a = Memory.read s.mem a

/-- The addresses of the registers stored whole by an ordinary write (R33, "whole word"). -/
def wholeWordCsrs : List CsrAddr :=
  [0x105, 0x140, 0x141, 0x142, 0x143, 0x180, 0x300, 0x302, 0x303, 0x304, 0x305, 0x340, 0x341, 0x342, 0x343]

/-- The addresses of the mapped registers and views that ignore a write (R45, R46). -/
def readOnlyCsrs : List CsrAddr := [0x301, 0xC00, 0xC80]

/-- The two views (R36, R42). -/
def viewCsrs : List CsrAddr := [0x100, 0x104]

/-- Two CSR addresses share storage: they are equal, or one is the view over the other (R36, R42). -/
def shareStorage (a a' : CsrAddr) : Bool :=
  a == a' || (a == 0x100 && a' == 0x300) || (a == 0x300 && a' == 0x100) ||
    (a == 0x104 && a' == 0x304) || (a == 0x304 && a' == 0x104)

/-- The CSR addresses that trap logic never writes (R33, "written by trap logic": no), the counter apart. -/
def untrappedCsrs : List CsrAddr :=
  [0x104, 0x105, 0x140, 0x180, 0x301, 0x302, 0x303, 0x304, 0x305, 0x340]

/-- `mstatus.MPP` encodes a privilege (R30, R206). -/
def LegalMpp (b : Bank) : Prop := statusMpp b.mstatus ≠ 0b10#2

/-! ### Instructions -/

/-- The destination register and the CSR address of a CSR instruction (R232 to R237). -/
def csrOperands : Instr → Option (Nat × CsrAddr)
  | .ecall | .ebreak | .sret | .mret => none
  | .csrrw rd csr _ | .csrrs rd csr _ | .csrrc rd csr _ => some (rd, csr)
  | .csrrwi rd csr _ | .csrrsi rd csr _ | .csrrci rd csr _ => some (rd, csr)

/-- The ordinary write a CSR instruction presents in its write tick, `old` being what its read tick read, and `none` where
it presents none (R232 to R237). -/
def csrPresentedWrite (s : State) (old : Word) : Instr → Option (CsrAddr × Word)
  | .ecall | .ebreak | .sret | .mret => none
  | .csrrw _ csr rs1 => some (csr, xRead s rs1)
  | .csrrs _ csr rs1 => if rs1 = 0 then none else some (csr, old ||| xRead s rs1)
  | .csrrc _ csr rs1 => if rs1 = 0 then none else some (csr, old &&& ~~~ xRead s rs1)
  | .csrrwi _ csr zimm => some (csr, BitVec.ofNat 32 zimm.toNat)
  | .csrrsi _ csr zimm => if zimm = 0 then none else some (csr, old ||| BitVec.ofNat 32 zimm.toNat)
  | .csrrci _ csr zimm => if zimm = 0 then none else some (csr, old &&& ~~~ BitVec.ofNat 32 zimm.toNat)

/-- The identity a control instruction presents (R104). -/
def controlKind : Instr → Option InstrKind
  | .ecall => some .ecall
  | .ebreak => some .ebreak
  | .sret => some .sret
  | .mret => some .mret
  | .csrrw _ _ _ | .csrrs _ _ _ | .csrrc _ _ _ | .csrrwi _ _ _ | .csrrsi _ _ _ | .csrrci _ _ _ => none

/-! ### Runs -/

/-- The block over the inputs of several ticks (R90). -/
def runTicks (p : Params) (b : Bank) (priv : Priv) : List TickInputs → Except Fault (Bank × Priv)
  | [] => .ok (b, priv)
  | inp :: rest =>
    match tick p b priv inp with
    | .error f => .error f
    | .ok r => runTicks p r.bank r.priv rest

/-! ### The invariant every step keeps -/

/-- What holds after the last tick of a step (R52, R181, R425, R424): the `priv` output was a legal encoding, an idle
redirect target is 0, a redirect is where the driver fetches next, and a `start_paging` pulse leaves translation
enabled. -/
def LastTickOk (s : State) (o : TickOutputs) : Prop :=
  o.priv ≠ 0b10#2 ∧ (o.redirectValid = false → o.redirectTarget = 0) ∧
    (o.redirectValid = true → s.pc = o.redirectTarget) ∧
    (o.startPaging = true → s.bank.satp.getLsbD 31 = true)

/-- The invariant: the program store is in canonical form, the driver's slot 0 holds 0, and the last tick's outputs
agree with the state. -/
def StepInv (s : State) : Prop :=
  Memory.wf s.mem = true ∧ s.x[0]? = some 0 ∧ ∀ o, s.outs.getLast? = some o → LastTickOk s o

end Sys2Proof.Machine
end

