-- ==== Sys2Proof/Certificates/Slice0/Obligations.lean ====
section
/-!
DEFINITION. The statements for the provers. The rules R<n> are those of `spec/`; `OBLIGATIONS.json` lists the statements
with the rules and sections they rest on.
-/

open Sys2Proof Sys2Proof.Machine

/-! ### Reset -/

/-- R400: every stored register and the counter are 0 after reset, every CSR address but `misa`'s reads as 0, `misa`
reads as `MISA_VALUE`, and the privilege is Machine, `0b11`, for every value of the parameters, those of `State.reset`
among them. -/
def Obligations.ResetLeavesTheSpecifiedValues : Prop :=
  ∀ p : Params,
    (State.resetWith p).priv = .machine ∧ privBits (State.resetWith p).priv = 0b11 ∧
    (State.resetWith p).bank.mstatus = 0 ∧ (State.resetWith p).bank.medeleg = 0 ∧
    (State.resetWith p).bank.mideleg = 0 ∧ (State.resetWith p).bank.mie = 0 ∧
    (State.resetWith p).bank.mtvec = 0 ∧ (State.resetWith p).bank.stvec = 0 ∧
    (State.resetWith p).bank.mscratch = 0 ∧ (State.resetWith p).bank.sscratch = 0 ∧
    (State.resetWith p).bank.mepc = 0 ∧ (State.resetWith p).bank.sepc = 0 ∧
    (State.resetWith p).bank.mcause = 0 ∧ (State.resetWith p).bank.scause = 0 ∧
    (State.resetWith p).bank.mtval = 0 ∧ (State.resetWith p).bank.stval = 0 ∧
    (State.resetWith p).bank.satp = 0 ∧ (State.resetWith p).bank.cyc = 0 ∧
    csrRead p (State.resetWith p).bank 0x301 = p.misaValue ∧
    ∀ a : CsrAddr, a ≠ 0x301 → csrRead p (State.resetWith p).bank a = 0

/-- The first tick after reset, with no ordinary write, answers whatever its other inputs are: it takes no interrupt,
an exception enters Machine, every redirect goes to address 0, and translation is disabled (R403, which the spec derives
from R400, R304, R312, R313, R323 and R180). -/
def Obligations.FirstTickAfterReset : Prop :=
  ∀ (p : Params) (inp : TickInputs), inp.csrWEn = false →
    ∃ r, tick p (State.resetWith p).bank (State.resetWith p).priv inp = .ok r ∧
      r.out.mmuEnable = false ∧ r.out.redirectTarget = 0 ∧
      (∀ c epc, arbitrate p .machine (State.resetWith p).bank inp ≠ .intTrap c epc) ∧
      ((∃ c epc tval, arbitrate p .machine (State.resetWith p).bank inp = .excTrap c epc tval) → r.priv = .machine)

/-! ### The ports of the CSR bank -/

/-- R152: what each of the twenty mapped addresses reads as, and that every other address reads as zero. -/
def Obligations.CsrReadFollowsTheMap : Prop :=
  ∀ (p : Params) (b : Bank),
    csrRead p b 0x100 = b.mstatus &&& p.sstatusMask ∧ csrRead p b 0x104 = b.mie &&& p.sieMask ∧
    csrRead p b 0x105 = b.stvec ∧ csrRead p b 0x140 = b.sscratch ∧ csrRead p b 0x141 = b.sepc ∧
    csrRead p b 0x142 = b.scause ∧ csrRead p b 0x143 = b.stval ∧ csrRead p b 0x180 = b.satp ∧
    csrRead p b 0x300 = b.mstatus ∧ csrRead p b 0x301 = p.misaValue ∧ csrRead p b 0x302 = b.medeleg ∧
    csrRead p b 0x303 = b.mideleg ∧ csrRead p b 0x304 = b.mie ∧ csrRead p b 0x305 = b.mtvec ∧
    csrRead p b 0x340 = b.mscratch ∧ csrRead p b 0x341 = b.mepc ∧ csrRead p b 0x342 = b.mcause ∧
    csrRead p b 0x343 = b.mtval ∧ csrRead p b 0xC00 = b.cyc.extractLsb' 0 32 ∧
    csrRead p b 0xC80 = b.cyc.extractLsb' 32 32 ∧
    ∀ a, a ∉ wholeWordCsrs → a ∉ readOnlyCsrs → a ∉ viewCsrs → csrRead p b a = 0

/-- An ordinary write to a register stored whole stores all 32 bits; one to a read-only or an unmapped address changes
nothing (R161; the second clause is the spec's own decision D9). -/
def Obligations.OrdinaryWriteStoresTheWord : Prop :=
  ∀ (p : Params) (b : Bank) (a : CsrAddr) (d : Word),
    (a ∈ wholeWordCsrs → csrRead p (applyOrdinary p b (some (a, d))) a = d) ∧
    (a ∉ wholeWordCsrs → a ∉ viewCsrs → applyOrdinary p b (some (a, d)) = b)

/-- A write to `sstatus` or `sie` changes exactly the masked bits of `mstatus` or `mie`, and the view then reads as the
written bits under the mask (R36, R42, R157 (a); the masks are the spec's own decisions D5 and D6, here any masks). -/
def Obligations.ViewsMergeUnderTheirMasks : Prop :=
  ∀ (p : Params) (b : Bank) (d : Word),
    csrRead p (applyOrdinary p b (some (0x100, d))) 0x100 = d &&& p.sstatusMask ∧
    csrRead p (applyOrdinary p b (some (0x104, d))) 0x104 = d &&& p.sieMask ∧
    ∀ i, i < 32 →
      (csrRead p (applyOrdinary p b (some (0x100, d))) 0x300).getLsbD i =
        (if p.sstatusMask.getLsbD i then d.getLsbD i else b.mstatus.getLsbD i) ∧
      (csrRead p (applyOrdinary p b (some (0x104, d))) 0x304).getLsbD i =
        (if p.sieMask.getLsbD i then d.getLsbD i else b.mie.getLsbD i)

/-- An ordinary write leaves every address that does not share its storage reading as before (R160 "writes exactly one
addressed register", R161, R85). -/
def Obligations.OrdinaryWriteChangesOneRegister : Prop :=
  ∀ (p : Params) (b : Bank) (a a' : CsrAddr) (d : Word), shareStorage a a' = false →
    csrRead p (applyOrdinary p b (some (a, d))) a' = csrRead p b a'

/-- The read port shows the snapshot of its own tick: with no ordinary write the stored value; with one, the written word
of a register stored whole, and the stored value of any address that does not share storage (R151, R155). What the views,
the read-only and the unmapped addresses show in the tick of a write to them is the spec's own decision D10 (R157): the
written bits under the mask, the merged word at the backing register, the stored value, and zero. Where the tick asserts
no redirect, the next tick starts from what the port showed, the counter apart (R420). -/
def Obligations.ForwardedReadSeesTheWrite : Prop :=
  ∀ (p : Params) (b : Bank) (priv : Priv) (inp : TickInputs) (r : TickResult), tick p b priv inp = .ok r →
    r.out.csrRData = csrRead p (snapshot p b inp) inp.csrRAddr ∧
    (inp.csrWEn = false → r.out.csrRData = csrRead p b inp.csrRAddr) ∧
    (inp.csrWEn = true →
      (inp.csrWAddr ∈ wholeWordCsrs → inp.csrRAddr = inp.csrWAddr → r.out.csrRData = inp.csrWData) ∧
      (inp.csrWAddr ∈ readOnlyCsrs → inp.csrRAddr = inp.csrWAddr →
        r.out.csrRData = csrRead p b inp.csrRAddr) ∧
      (shareStorage inp.csrWAddr inp.csrRAddr = false → r.out.csrRData = csrRead p b inp.csrRAddr) ∧
      (inp.csrWAddr = 0x100 → inp.csrRAddr = 0x100 → r.out.csrRData = inp.csrWData &&& p.sstatusMask) ∧
      (inp.csrWAddr = 0x104 → inp.csrRAddr = 0x104 → r.out.csrRData = inp.csrWData &&& p.sieMask) ∧
      (inp.csrWAddr = 0x100 → inp.csrRAddr = 0x300 →
        r.out.csrRData = (b.mstatus &&& ~~~ p.sstatusMask) ||| (inp.csrWData &&& p.sstatusMask)) ∧
      (inp.csrWAddr = 0x104 → inp.csrRAddr = 0x304 →
        r.out.csrRData = (b.mie &&& ~~~ p.sieMask) ||| (inp.csrWData &&& p.sieMask)) ∧
      (inp.csrWAddr = 0x300 → inp.csrRAddr = 0x100 → r.out.csrRData = inp.csrWData &&& p.sstatusMask) ∧
      (inp.csrWAddr = 0x304 → inp.csrRAddr = 0x104 → r.out.csrRData = inp.csrWData &&& p.sieMask) ∧
      (inp.csrWAddr ∉ wholeWordCsrs → inp.csrWAddr ∉ readOnlyCsrs → inp.csrWAddr ∉ viewCsrs →
        inp.csrRAddr = inp.csrWAddr → r.out.csrRData = 0) ∧
      (inp.csrWAddr ∈ wholeWordCsrs → r.out.redirectValid = false →
        csrRead p r.bank inp.csrWAddr = inp.csrWData)) ∧
    (r.out.redirectValid = false → inp.csrRAddr ≠ 0xC00 → inp.csrRAddr ≠ 0xC80 →
      csrRead p r.bank inp.csrRAddr = r.out.csrRData)

/-! ### The tick -/

/-- R175: the counter advances by one, modulo `2^64`, at the end of every tick. -/
def Obligations.CounterAdvancesEveryTick : Prop :=
  ∀ (p : Params) (b : Bank) (priv : Priv) (inp : TickInputs) (r : TickResult), tick p b priv inp = .ok r →
    r.bank.cyc.toNat = (b.cyc.toNat + 1) % 2 ^ 64

/-- R181: `start_paging` is 1 exactly in a tick that turns the stored translation-enable bit from 0 to 1, which only an
ordinary write of `satp` with bit 31 set does, and the pulse lasts one tick. -/
def Obligations.StartPagingMarksEnabling : Prop :=
  ∀ (p : Params) (b : Bank) (priv : Priv) (inp : TickInputs) (r : TickResult), tick p b priv inp = .ok r →
    (r.out.startPaging = true ↔ b.satp.getLsbD 31 = false ∧ r.bank.satp.getLsbD 31 = true) ∧
    (r.out.startPaging = true ↔
      inp.csrWEn = true ∧ inp.csrWAddr = 0x180 ∧ b.satp.getLsbD 31 = false ∧ inp.csrWData.getLsbD 31 = true ∧
        (arbitrate p priv (snapshot p b inp) inp = .noTrap ∨ p.ordinaryWriteOnTrapTick = .keepUntouched)) ∧
    (r.out.startPaging = true → ∀ inp₂ r₂, tick p r.bank r.priv inp₂ = .ok r₂ → r₂.out.startPaging = false)

/-- `mmu_enable` is the enable bit as stored at the start of the tick, so a `satp` write committed in one tick is seen in
the next (R180; the spec's own decision D24). -/
def Obligations.TranslationEnableSeenNextTick : Prop :=
  ∀ (p : Params) (b : Bank) (priv : Priv) (inp inp₂ : TickInputs) (r r₂ : TickResult),
    tick p b priv inp = .ok r → tick p r.bank r.priv inp₂ = .ok r₂ →
      r.out.mmuEnable = b.satp.getLsbD 31 ∧ r₂.out.mmuEnable = r.bank.satp.getLsbD 31 ∧
      (inp.csrWEn = true → inp.csrWAddr = 0x180 → r.out.redirectValid = false →
        r₂.out.mmuEnable = inp.csrWData.getLsbD 31)

/-- A tick faults exactly when it decides on a return from machine trap while the forwarded MPP is `0b10`, and then with
`ReservedMPP` (R185, R206; the spec's own decision D23). -/
def Obligations.TickFaultsOnlyOnReservedMpp : Prop :=
  ∀ (p : Params) (b : Bank) (priv : Priv) (inp : TickInputs) (f : Fault),
    tick p b priv inp = .error f ↔
      f = .reservedMPP ∧ arbitrate p priv (snapshot p b inp) inp = .mret ∧
        statusMpp (snapshot p b inp).mstatus = 0b10#2

/-- R163 and R360: where none of the six conditions holds the decision is `NoTrap`; then there is no redirect and no mode
change, and the bank is the one the ordinary write gives with the counter advanced; with no ordinary write every register
holds its value. An SRET that TSR suppresses under `NOOP` is such a tick. -/
def Obligations.NoTrapTickCommitsTheWrite : Prop :=
  ∀ (p : Params) (b : Bank) (priv : Priv) (inp : TickInputs),
    (arbitrate p priv (snapshot p b inp) inp = .noTrap →
      ∃ r, tick p b priv inp = .ok r ∧ r.out.redirectValid = false ∧ r.priv = priv ∧
        (inp.csrWEn = true → r.bank =
          { applyOrdinary p b (some (inp.csrWAddr, inp.csrWData)) with cyc := b.cyc + 1 }) ∧
        (inp.csrWEn = false → r.bank = { b with cyc := b.cyc + 1 })) ∧
    (noFlag inp = true → noEnvKind p inp = true → noInterrupt p priv (snapshot p b inp) inp = true →
      kindOfBits inp.instrKind ≠ .mret → kindOfBits inp.instrKind ≠ .sret →
      arbitrate p priv (snapshot p b inp) inp = .noTrap) ∧
    (noFlag inp = true → noInterrupt p priv (snapshot p b inp) inp = true →
      kindOfBits inp.instrKind = .sret → priv = .supervisor →
      statusTsr (snapshot p b inp).mstatus = true → p.tsrSretMode = .noop →
      arbitrate p priv (snapshot p b inp) inp = .noTrap)

/-! ### Arbitration -/

/-- R301, R302 and R303: the decode-stage flag, then the ECALL and EBREAK identities of the same condition where
`ENV_FROM_IDENTITY` holds, then the memory stage, then the translation stage, each when nothing before it holds; and only
the translation stage gives a trap value other than zero. -/
def Obligations.ExceptionConditionsInOrder : Prop :=
  ∀ (p : Params) (priv : Priv) (snap : Bank) (inp : TickInputs),
    (inp.idExcValid = true → arbitrate p priv snap inp = .excTrap inp.idExcCode inp.idPc 0) ∧
    (inp.idExcValid = false → p.envFromIdentity = true →
      (kindOfBits inp.instrKind = .ecall ∨ kindOfBits inp.instrKind = .ebreak) →
      ∃ c, arbitrate p priv snap inp = .excTrap c inp.idPc 0) ∧
    (inp.idExcValid = false → noEnvKind p inp = true → inp.memExcValid = true →
      arbitrate p priv snap inp = .excTrap inp.memExcCode inp.memPc 0) ∧
    (inp.idExcValid = false → noEnvKind p inp = true → inp.memExcValid = false → inp.mmuExcValid = true →
      arbitrate p priv snap inp = .excTrap inp.mmuExcCode inp.mmuPc inp.mmuTval) ∧
    (∀ c epc tval, arbitrate p priv snap inp = .excTrap c epc tval → tval ≠ 0 →
      inp.mmuExcValid = true ∧ tval = inp.mmuTval)

/-- R330: a tick is unchanged when every signal below the highest asserted one is replaced by any other value: below the
decode-stage flag; below an ECALL or EBREAK identity; below the memory stage; below the translation stage; and a
return below a taken interrupt. -/
def Obligations.LowerPrioritySignalsIgnored : Prop :=
  ∀ (p : Params) (b : Bank) (priv : Priv) (inp other : TickInputs),
    (inp.idExcValid = true →
      tick p b priv { inp with
        memExcValid := other.memExcValid, memExcCode := other.memExcCode, memPc := other.memPc,
        mmuExcValid := other.mmuExcValid, mmuExcCode := other.mmuExcCode, mmuPc := other.mmuPc,
        mmuTval := other.mmuTval, irq := other.irq, instrKind := other.instrKind, fetchPc := other.fetchPc,
        jumpValid := other.jumpValid, jumpTarget := other.jumpTarget } = tick p b priv inp) ∧
    (inp.idExcValid = false → p.envFromIdentity = true →
      (kindOfBits inp.instrKind = .ecall ∨ kindOfBits inp.instrKind = .ebreak) →
      tick p b priv { inp with
        memExcValid := other.memExcValid, memExcCode := other.memExcCode, memPc := other.memPc,
        mmuExcValid := other.mmuExcValid, mmuExcCode := other.mmuExcCode, mmuPc := other.mmuPc,
        mmuTval := other.mmuTval, irq := other.irq, fetchPc := other.fetchPc,
        jumpValid := other.jumpValid, jumpTarget := other.jumpTarget } = tick p b priv inp) ∧
    (inp.idExcValid = false → noEnvKind p inp = true → noEnvKind p other = true → inp.memExcValid = true →
      tick p b priv { inp with
        idPc := other.idPc, mmuExcValid := other.mmuExcValid, mmuExcCode := other.mmuExcCode,
        mmuPc := other.mmuPc, mmuTval := other.mmuTval, irq := other.irq, instrKind := other.instrKind,
        fetchPc := other.fetchPc, jumpValid := other.jumpValid, jumpTarget := other.jumpTarget } =
        tick p b priv inp) ∧
    (inp.idExcValid = false → noEnvKind p inp = true → noEnvKind p other = true → inp.memExcValid = false →
      inp.mmuExcValid = true →
      tick p b priv { inp with
        idPc := other.idPc, irq := other.irq, instrKind := other.instrKind, fetchPc := other.fetchPc,
        jumpValid := other.jumpValid, jumpTarget := other.jumpTarget } = tick p b priv inp) ∧
    (noFlag inp = true → noEnvKind p inp = true → noEnvKind p other = true →
      noInterrupt p priv (snapshot p b inp) inp = false →
      tick p b priv { inp with idPc := other.idPc, instrKind := other.instrKind } = tick p b priv inp)

/-- With no exception of conditions 1 to 3, an interrupt is taken exactly when a line is set and the gate of the current
mode is open, with the code of the line and the address fetch would go to next (R311, R312, R314; the spec's own
decisions D15 to D18). -/
def Obligations.InterruptGateByMode : Prop :=
  ∀ (p : Params) (priv : Priv) (snap : Bank) (inp : TickInputs) (c : Code) (epc : Word),
    noFlag inp = true → noEnvKind p inp = true →
    (arbitrate p priv snap inp = .intTrap c epc ↔
      inp.irq ≠ 0 ∧ c = (if inp.irq.getLsbD 0 then 7 else 11) ∧
      epc = (if inp.jumpValid then inp.jumpTarget else inp.fetchPc) ∧
      match priv with
      | .machine => snap.mideleg.getLsbD c.toNat = false ∧ snap.mstatus.getLsbD 3 = true
      | .supervisor =>
        (snap.mideleg.getLsbD c.toNat = true ∧ snap.mstatus.getLsbD 1 = true) ∨
          (snap.mideleg.getLsbD c.toNat = false ∧
            (snap.mstatus.getLsbD 1 = true ∨ p.intGateBelowM = .always))
      | .user => True)

/-- At Machine with MIE clear and no ordinary write, no exception flag and no identity, any interrupt lines leave the
mode and every register as they are, the counter apart, and assert no redirect (the source's global-disable property as
`90_conflicts.md` C6 and C7 resolve it). -/
def Obligations.GlobalDisableAtMachine : Prop :=
  ∀ (p : Params) (b : Bank) (inp : TickInputs),
    inp.csrWEn = false → noFlag inp = true → kindOfBits inp.instrKind = .none → b.mstatus.getLsbD 3 = false →
    ∃ r, tick p b .machine inp = .ok r ∧ r.out.redirectValid = false ∧ r.priv = .machine ∧
      r.bank = { b with cyc := b.cyc + 1 }

/-- `mie`, `mscratch` and `sscratch` influence nothing but what the read port shows: two banks that differ in them alone
fault alike, give the same outputs but for the read data, the same mode, and next banks that differ in them alone
(R42 with the spec's own decision D17, R43). -/
def Obligations.UninterpretedRegistersDoNotInfluence : Prop :=
  ∀ (p : Params) (b : Bank) (priv : Priv) (inp : TickInputs) (mie mscratch sscratch : Word),
    (∀ f, tick p b priv inp = .error f →
      tick p { b with mie := mie, mscratch := mscratch, sscratch := sscratch } priv inp = .error f) ∧
    (∀ r, tick p b priv inp = .ok r →
      ∃ r', tick p { b with mie := mie, mscratch := mscratch, sscratch := sscratch } priv inp = .ok r' ∧
        r'.priv = r.priv ∧ { r'.out with csrRData := r.out.csrRData } = r.out ∧
        { r'.bank with mie := r.bank.mie, mscratch := r.bank.mscratch, sscratch := r.bank.sscratch } = r.bank)

/-! ### Taking a trap -/

/-- R320: a trap whose target mode is Machine. -/
def Obligations.TrapIntoMachine : Prop :=
  ∀ (p : Params) (b : Bank) (priv : Priv) (inp : TickInputs),
    (∀ c epc tval, arbitrate p priv (snapshot p b inp) inp = .excTrap c epc tval →
      excTarget priv (snapshot p b inp) c = .machine →
      ∃ r, tick p b priv inp = .ok r ∧ r.out.redirectValid = true ∧
        EnteredMachine priv (snapshot p b inp) false c epc tval r.bank r.priv r.out.redirectTarget) ∧
    (∀ c epc, arbitrate p priv (snapshot p b inp) inp = .intTrap c epc →
      intTarget priv (snapshot p b inp) c = .machine →
      ∃ r, tick p b priv inp = .ok r ∧ r.out.redirectValid = true ∧
        EnteredMachine priv (snapshot p b inp) true c epc 0 r.bank r.priv r.out.redirectTarget)

/-- R321: a trap whose target mode is Supervisor; it is taken only from User or Supervisor. -/
def Obligations.TrapIntoSupervisor : Prop :=
  ∀ (p : Params) (b : Bank) (priv : Priv) (inp : TickInputs),
    (∀ c epc tval, arbitrate p priv (snapshot p b inp) inp = .excTrap c epc tval →
      excTarget priv (snapshot p b inp) c = .supervisor →
      priv ≠ .machine ∧ ∃ r, tick p b priv inp = .ok r ∧ r.out.redirectValid = true ∧
        EnteredSupervisor priv (snapshot p b inp) false c epc tval r.bank r.priv r.out.redirectTarget) ∧
    (∀ c epc, arbitrate p priv (snapshot p b inp) inp = .intTrap c epc →
      intTarget priv (snapshot p b inp) c = .supervisor →
      priv ≠ .machine ∧ ∃ r, tick p b priv inp = .ok r ∧ r.out.redirectValid = true ∧
        EnteredSupervisor priv (snapshot p b inp) true c epc 0 r.bank r.priv r.out.redirectTarget)

/-- The mode a trap enters: Supervisor exactly when the privilege is below Machine and the code's delegation bit is set,
a code of 32 or more having none, and Machine otherwise (R304 with the spec's own decision D14, R313). -/
def Obligations.TrapTargetMode : Prop :=
  ∀ (p : Params) (b : Bank) (priv : Priv) (inp : TickInputs) (r : TickResult), tick p b priv inp = .ok r →
    (∀ c epc tval, arbitrate p priv (snapshot p b inp) inp = .excTrap c epc tval →
      r.priv = (if priv ≠ .machine ∧ c.toNat < 32 ∧ (snapshot p b inp).medeleg.getLsbD c.toNat = true
        then .supervisor else .machine)) ∧
    (∀ c epc, arbitrate p priv (snapshot p b inp) inp = .intTrap c epc →
      r.priv = (if priv ≠ .machine ∧ (snapshot p b inp).mideleg.getLsbD c.toNat = true
        then .supervisor else .machine))

/-- R323: the base is `tvec` with bits 1:0 cleared; a vectored interrupt adds four times its code, modulo `2^32`. -/
def Obligations.HandlerAddressByModeAndCause : Prop :=
  ∀ (tvec : Word) (intr : Bool) (code : Code),
    (intr = true → tvec.toNat % 4 = 1 →
      (handlerAddress tvec intr code).toNat = (4 * (tvec.toNat / 4) + 4 * code.toNat) % 2 ^ 32) ∧
    (intr = false ∨ tvec.toNat % 4 ≠ 1 → (handlerAddress tvec intr code).toNat = 4 * (tvec.toNat / 4))

/-- R322: bit 31 of the cause word is the interrupt flag, bits 30:0 are the code, so an exception's word is its code. -/
def Obligations.CauseWordLayout : Prop :=
  ∀ (intr : Bool) (code : Code),
    (causeWord intr code).getLsbD 31 = intr ∧ (causeWord intr code).extractLsb' 0 31 = code ∧
      (causeWord false code).toNat = code.toNat

/-! ### Returning from a trap -/

/-- A return from machine trap, to the mode `np` that MPP encodes (R205), or stopping where MPP is `0b10` (R206; that stop
is the spec's own decision D23, log entry 16). -/
def Obligations.MachineReturn : Prop :=
  ∀ (p : Params) (b : Bank) (priv : Priv) (inp : TickInputs),
    arbitrate p priv (snapshot p b inp) inp = .mret →
    (∀ np, privBits np = statusMpp (snapshot p b inp).mstatus →
      ∃ r, tick p b priv inp = .ok r ∧ r.out.redirectValid = true ∧
        r.out.redirectTarget = (snapshot p b inp).mepc ∧ r.priv = np ∧
        MachineReturnStatus np (snapshot p b inp).mstatus r.bank.mstatus ∧
        TrapRegistersKept (snapshot p b inp) r.bank) ∧
    (statusMpp (snapshot p b inp).mstatus = 0b10#2 → tick p b priv inp = .error .reservedMPP)

/-- R209: a return from supervisor trap. -/
def Obligations.SupervisorReturn : Prop :=
  ∀ (p : Params) (b : Bank) (priv : Priv) (inp : TickInputs),
    arbitrate p priv (snapshot p b inp) inp = .sret →
    ∃ r, tick p b priv inp = .ok r ∧ r.out.redirectValid = true ∧
      r.out.redirectTarget = (snapshot p b inp).sepc ∧
      r.priv = (if (snapshot p b inp).mstatus.getLsbD 8 = true then .supervisor else .user) ∧
      SupervisorReturnStatus (snapshot p b inp).mstatus r.bank.mstatus ∧
      TrapRegistersKept (snapshot p b inp) r.bank

/-! ### Whole-block rules -/

/-- R340: the redirect is asserted in exactly the ticks whose decision is a trap or a return, and is then the handler
address of the mode entered or the saved return address. -/
def Obligations.RedirectExactlyOnTrapOrReturn : Prop :=
  ∀ (p : Params) (b : Bank) (priv : Priv) (inp : TickInputs) (r : TickResult), tick p b priv inp = .ok r →
    (r.out.redirectValid = true ↔
      (∃ c epc tval, arbitrate p priv (snapshot p b inp) inp = .excTrap c epc tval) ∨
      (∃ c epc, arbitrate p priv (snapshot p b inp) inp = .intTrap c epc) ∨
      arbitrate p priv (snapshot p b inp) inp = .mret ∨ arbitrate p priv (snapshot p b inp) inp = .sret) ∧
    (∀ c epc tval, arbitrate p priv (snapshot p b inp) inp = .excTrap c epc tval →
      r.out.redirectTarget = handlerAddress
        (if r.priv = .supervisor then (snapshot p b inp).stvec else (snapshot p b inp).mtvec) false c) ∧
    (∀ c epc, arbitrate p priv (snapshot p b inp) inp = .intTrap c epc →
      r.out.redirectTarget = handlerAddress
        (if r.priv = .supervisor then (snapshot p b inp).stvec else (snapshot p b inp).mtvec) true c) ∧
    (arbitrate p priv (snapshot p b inp) inp = .mret → r.out.redirectTarget = (snapshot p b inp).mepc) ∧
    (arbitrate p priv (snapshot p b inp) inp = .sret → r.out.redirectTarget = (snapshot p b inp).sepc)

/-- The privilege latch after a tick, decision by decision (R170), while the `priv` output shows the latch at the start of
the tick, so the mode being left in a trap tick (R52, R423; the spec's own decision D25). -/
def Obligations.PrivilegeLatchCommit : Prop :=
  ∀ (p : Params) (b : Bank) (priv : Priv) (inp : TickInputs) (r : TickResult), tick p b priv inp = .ok r →
    r.out.priv = privBits priv ∧
    match arbitrate p priv (snapshot p b inp) inp with
    | .excTrap c _ _ => r.priv = excTarget priv (snapshot p b inp) c
    | .intTrap c _ => r.priv = intTarget priv (snapshot p b inp) c
    | .mret => privBits r.priv = statusMpp (snapshot p b inp).mstatus
    | .sret => r.priv = (if (snapshot p b inp).mstatus.getLsbD 8 = true then .supervisor else .user)
    | .noTrap => r.priv = priv

/-- An ordinary write in a tick with a direct write: under `DROP` every register outside the direct-write set keeps its
stored value, under `KEEP_UNTOUCHED` it takes the write (R166; the spec's own decision D11, `90_conflicts.md` C1). -/
def Obligations.OrdinaryWriteInTrapTick : Prop :=
  ∀ (p : Params) (b : Bank) (priv : Priv) (inp : TickInputs) (r : TickResult), tick p b priv inp = .ok r →
    r.out.redirectValid = true →
      (p.ordinaryWriteOnTrapTick = .drop → SameOutsideDirectSet b r.bank) ∧
      (p.ordinaryWriteOnTrapTick = .keepUntouched → SameOutsideDirectSet (snapshot p b inp) r.bank)

/-- With no ordinary write, whatever the decision, the registers outside the direct-write set hold their values and so do
the reserved bits of `mstatus` and TSR (R33 and R34, "written by trap logic": no). -/
def Obligations.TrapLogicWritesOnlyItsFields : Prop :=
  ∀ (p : Params) (b : Bank) (priv : Priv) (inp : TickInputs) (r : TickResult), tick p b priv inp = .ok r →
    inp.csrWEn = false →
      SameOutsideDirectSet b r.bank ∧
      ∀ i, i ∈ untrappedStatusBits → r.bank.mstatus.getLsbD i = b.mstatus.getLsbD i

/-- An ordinary write that sets MIE, in a tick at Machine with an interrupt line asserted and its code not delegated,
takes the interrupt in that very tick, whatever MIE was, and leaves MIE 0 and MPIE 1 (R422, which the spec derives). -/
def Obligations.SameTickEnableTakesInterrupt : Prop :=
  ∀ (p : Params) (b : Bank) (inp : TickInputs),
    noFlag inp = true → noEnvKind p inp = true → inp.irq ≠ 0 →
    inp.csrWEn = true → inp.csrWAddr = 0x300 → inp.csrWData.getLsbD 3 = true →
    b.mideleg.getLsbD (intCode inp.irq).toNat = false →
    ∃ r, tick p b .machine inp = .ok r ∧ r.out.redirectValid = true ∧
      r.out.redirectTarget = handlerAddress b.mtvec true (intCode inp.irq) ∧
      r.bank.mstatus.getLsbD 3 = false ∧ r.bank.mstatus.getLsbD 7 = true ∧
      r.bank.mepc = intReturnAddress inp ∧ r.bank.mcause = causeWord true (intCode inp.irq)

/-- A delegated interrupt pending at Machine waits for the return: in the MRET tick the return to User happens, and the
next tick takes the interrupt into Supervisor with its own fetch address as the return address (R426, which the spec
derives). -/
def Obligations.DelegatedInterruptWaitsForReturn : Prop :=
  ∀ (p : Params) (b : Bank) (inp inp₂ : TickInputs),
    noFlag inp = true → kindOfBits inp.instrKind = .mret → inp.csrWEn = false →
    statusMpp b.mstatus = 0b00#2 → b.mideleg.getLsbD (intCode inp.irq).toNat = true →
    noFlag inp₂ = true → noEnvKind p inp₂ = true → inp₂.csrWEn = false → inp₂.irq = inp.irq → inp.irq ≠ 0 →
    ∃ r r₂, tick p b .machine inp = .ok r ∧ r.priv = .user ∧ r.out.redirectTarget = b.mepc ∧
      tick p r.bank r.priv inp₂ = .ok r₂ ∧ r₂.priv = .supervisor ∧ r₂.bank.sepc = intReturnAddress inp₂ ∧
      r₂.bank.scause = causeWord true (intCode inp.irq) ∧
      r₂.out.redirectTarget = handlerAddress b.stvec true (intCode inp.irq)

/-- A tick never stores the reserved MPP itself: if the forwarded `mstatus` holds a legal MPP, the tick answers and the
committed one is legal (R206: "The value cannot be saved by a trap"). -/
def Obligations.LegalMppIsKept : Prop :=
  ∀ (p : Params) (b : Bank) (priv : Priv) (inp : TickInputs), LegalMpp (snapshot p b inp) →
    ∃ r, tick p b priv inp = .ok r ∧ LegalMpp r.bank

/-- A trap into Machine, then any number of handler ticks with no exception and no identity that write neither `mstatus`,
`sstatus` nor `mepc`, under any interrupt lines, then an MRET: every tick answers, no handler tick leaves Machine, and
the MRET restores the trapped privilege and MIE, leaves MPIE 1 and MPP User, and redirects to the trap's return address
(R212, R327, which the spec derives). -/
def Obligations.MachineTrapRoundTrip : Prop :=
  ∀ (p : Params) (b : Bank) (priv : Priv) (inp inpR : TickInputs) (hs : List TickInputs) (r : TickResult)
    (c : Code) (epc tval : Word),
    tick p b priv inp = .ok r → r.priv = .machine →
    (arbitrate p priv (snapshot p b inp) inp = .excTrap c epc tval ∨
      arbitrate p priv (snapshot p b inp) inp = .intTrap c epc) →
    (∀ h, h ∈ inpR :: hs → noFlag h = true ∧ (h.csrWEn = true → h.csrWAddr ∉ [0x300#12, 0x100#12, 0x341#12])) →
    (∀ h, h ∈ hs → kindOfBits h.instrKind = .none) → kindOfBits inpR.instrKind = .mret →
    ∃ b' r', runTicks p r.bank r.priv hs = .ok (b', .machine) ∧ tick p b' .machine inpR = .ok r' ∧
      r'.priv = priv ∧ r'.out.redirectValid = true ∧ r'.out.redirectTarget = epc ∧
      r'.bank.mstatus.getLsbD 3 = (snapshot p b inp).mstatus.getLsbD 3 ∧
      r'.bank.mstatus.getLsbD 7 = true ∧ statusMpp r'.bank.mstatus = 0b00#2

/-- The same for a trap into Supervisor and an SRET with TSR clear: handler ticks that write neither `mstatus`, `sstatus`
nor `sepc`, with the interrupt gate of the current level or no line asserted; SIE and the privilege are restored, SPIE is
1, SPP is User and MPRV is 0 (R212, R327, which the spec derives). A line asserted under `INT_GATE_BELOW_M = ALWAYS` is
left out, because a non-delegated interrupt can then leave the handler. -/
def Obligations.SupervisorTrapRoundTrip : Prop :=
  ∀ (p : Params) (b : Bank) (priv : Priv) (inp inpR : TickInputs) (hs : List TickInputs) (r : TickResult)
    (c : Code) (epc tval : Word),
    tick p b priv inp = .ok r → r.priv = .supervisor →
    (arbitrate p priv (snapshot p b inp) inp = .excTrap c epc tval ∨
      arbitrate p priv (snapshot p b inp) inp = .intTrap c epc) →
    (snapshot p b inp).mstatus.getLsbD 22 = false →
    (∀ h, h ∈ inpR :: hs → noFlag h = true ∧ (p.intGateBelowM = .currentEnable ∨ h.irq = 0) ∧
      (h.csrWEn = true → h.csrWAddr ∉ [0x300#12, 0x100#12, 0x141#12])) →
    (∀ h, h ∈ hs → kindOfBits h.instrKind = .none) → kindOfBits inpR.instrKind = .sret →
    ∃ b' r', runTicks p r.bank r.priv hs = .ok (b', .supervisor) ∧ tick p b' .supervisor inpR = .ok r' ∧
      r'.priv = priv ∧ r'.out.redirectValid = true ∧ r'.out.redirectTarget = epc ∧
      r'.bank.mstatus.getLsbD 1 = (snapshot p b inp).mstatus.getLsbD 1 ∧
      r'.bank.mstatus.getLsbD 5 = true ∧ r'.bank.mstatus.getLsbD 8 = false ∧
      r'.bank.mstatus.getLsbD 17 = false

/-! ### The control instructions -/

/-- ECALL takes its environment call: the code is that of the current privilege, or the decode stage's where that stage
raises its flag, and the return address is the ECALL's own (R201, R202 under the reference driver of R231; the spec's own
decisions D20 and D32). -/
def Obligations.EcallTakesEnvironmentCall : Prop :=
  ∀ s : State, s.params.envFromIdentity = true →
    ∃ t o, exec .ecall s = .next t ∧ t.outs = [o] ∧ o.redirectValid = true ∧
      TookException s.priv (snapshot s.params s.bank (controlInputs .ecall s))
        (if (envInputs s.env).idExcValid then (envInputs s.env).idExcCode
          else match s.priv with | .user => 8 | .supervisor => 9 | .machine => 11)
        s.pc 0 t.bank t.priv t.pc ∧
      t.bank.cyc = s.bank.cyc + 1 ∧ t.env = envAfter s.env ∧ DriverKept s t ∧
      ((envInputs s.env).csrWEn = false → SameOutsideDirectSet s.bank t.bank)

/-- EBREAK takes the breakpoint exception, code 3, or the decode stage's where that stage raises its flag, with its own
address as the return address (R202, R203 under the reference driver of R231; the spec's own decisions D20 and D32). -/
def Obligations.EbreakTakesBreakpoint : Prop :=
  ∀ s : State, s.params.envFromIdentity = true →
    ∃ t o, exec .ebreak s = .next t ∧ t.outs = [o] ∧ o.redirectValid = true ∧
      TookException s.priv (snapshot s.params s.bank (controlInputs .ebreak s))
        (if (envInputs s.env).idExcValid then (envInputs s.env).idExcCode else 3) s.pc 0 t.bank t.priv t.pc ∧
      t.bank.cyc = s.bank.cyc + 1 ∧ t.env = envAfter s.env ∧ DriverKept s t ∧
      ((envInputs s.env).csrWEn = false → SameOutsideDirectSet s.bank t.bank)

/-- With `ENV_FROM_IDENTITY = false` and a quiet environment, ECALL and EBREAK have no effect but the driver's advance and
the counter's (R202; the spec's own decision D20). -/
def Obligations.IdentityIgnoredWithoutParameter : Prop :=
  ∀ (s : State) (i : Instr), i = .ecall ∨ i = .ebreak → s.params.envFromIdentity = false →
    quiet (envInputs s.env) = true → (envInputs s.env).csrWEn = false →
    ∃ t, exec i s = .next t ∧ t.priv = s.priv ∧ t.bank = { s.bank with cyc := s.bank.cyc + 1 } ∧
      t.pc = s.pc + 4 ∧ t.env = envAfter s.env ∧ DriverKept s t

/-- MRET returns, at any privilege, where no exception flag is raised, no interrupt is taken and the forwarded MPP is
legal: to the forwarded `mepc`, in the mode MPP encodes (R204, R205, R207 under the reference driver of R231; the spec's
own decisions D22 and D32). -/
def Obligations.MretReturnsFromMachineTrap : Prop :=
  ∀ s : State, noFlag (envInputs s.env) = true →
    noInterrupt s.params s.priv (snapshot s.params s.bank (controlInputs .mret s)) (controlInputs .mret s) = true →
    LegalMpp (snapshot s.params s.bank (controlInputs .mret s)) →
    ∃ t o, exec .mret s = .next t ∧ t.outs = [o] ∧ o.redirectValid = true ∧
      t.pc = (snapshot s.params s.bank (controlInputs .mret s)).mepc ∧
      privBits t.priv = statusMpp (snapshot s.params s.bank (controlInputs .mret s)).mstatus ∧
      MachineReturnStatus t.priv (snapshot s.params s.bank (controlInputs .mret s)).mstatus t.bank.mstatus ∧
      TrapRegistersKept (snapshot s.params s.bank (controlInputs .mret s)) t.bank ∧
      t.bank.cyc = s.bank.cyc + 1 ∧ t.env = envAfter s.env ∧ DriverKept s t ∧
      ((envInputs s.env).csrWEn = false → SameOutsideDirectSet s.bank t.bank)

/-- MRET with the reserved MPP, where no exception flag is raised and no interrupt is taken, stops with `ReservedMPP`
(R206; the spec's own decision D23). -/
def Obligations.MretWithReservedMppFaults : Prop :=
  ∀ s : State, noFlag (envInputs s.env) = true →
    noInterrupt s.params s.priv (snapshot s.params s.bank (controlInputs .mret s)) (controlInputs .mret s) = true →
    ¬ LegalMpp (snapshot s.params s.bank (controlInputs .mret s)) →
    exec .mret s = .fault .reservedMPP

/-- SRET returns, at any privilege, where no exception flag is raised, no interrupt is taken and TSR does not block it: to
the forwarded `sepc`, in the mode of SPP (R208 to R210 under the reference driver of R231; the spec's own decisions D22
and D32). -/
def Obligations.SretReturnsFromSupervisorTrap : Prop :=
  ∀ s : State, noFlag (envInputs s.env) = true →
    noInterrupt s.params s.priv (snapshot s.params s.bank (controlInputs .sret s)) (controlInputs .sret s) = true →
    (s.priv ≠ .supervisor ∨ (snapshot s.params s.bank (controlInputs .sret s)).mstatus.getLsbD 22 = false) →
    ∃ t o, exec .sret s = .next t ∧ t.outs = [o] ∧ o.redirectValid = true ∧
      t.pc = (snapshot s.params s.bank (controlInputs .sret s)).sepc ∧
      t.priv = (if (snapshot s.params s.bank (controlInputs .sret s)).mstatus.getLsbD 8 = true
        then .supervisor else .user) ∧
      SupervisorReturnStatus (snapshot s.params s.bank (controlInputs .sret s)).mstatus t.bank.mstatus ∧
      TrapRegistersKept (snapshot s.params s.bank (controlInputs .sret s)) t.bank ∧
      t.bank.cyc = s.bank.cyc + 1 ∧ t.env = envAfter s.env ∧ DriverKept s t ∧
      ((envInputs s.env).csrWEn = false → SameOutsideDirectSet s.bank t.bank)

/-- SRET at Supervisor with TSR set: under `NOOP` it neither traps nor returns and the driver goes on, under `ILLEGAL` it
takes the illegal-instruction exception, code 2, at its own address (R211; the spec's own decision D21). That the driver
goes on at the target of a jump asserted beside the SRET is the model's own inference, log entry 12. -/
def Obligations.SretUnderTsrAtSupervisor : Prop :=
  ∀ s : State, noFlag (envInputs s.env) = true → s.priv = .supervisor →
    noInterrupt s.params s.priv (snapshot s.params s.bank (controlInputs .sret s)) (controlInputs .sret s) = true →
    (snapshot s.params s.bank (controlInputs .sret s)).mstatus.getLsbD 22 = true →
    ∃ t o, exec .sret s = .next t ∧ t.outs = [o] ∧ DriverKept s t ∧
      (s.params.tsrSretMode = .noop →
        o.redirectValid = false ∧ t.priv = .supervisor ∧
        t.bank = { snapshot s.params s.bank (controlInputs .sret s) with cyc := s.bank.cyc + 1 } ∧
        t.pc = (if (envInputs s.env).jumpValid then (envInputs s.env).jumpTarget else s.pc + 4)) ∧
      (s.params.tsrSretMode = .illegal →
        o.redirectValid = true ∧ t.bank.cyc = s.bank.cyc + 1 ∧
        TookException .supervisor (snapshot s.params s.bank (controlInputs .sret s)) 2 s.pc 0 t.bank t.priv t.pc)

/-- A return overtaken by an interrupt does not happen: the interrupt is taken, with the address after the return (or the
jump target of a jump in flight) as its return address (R200, R314, R330; the spec's own decisions D18 and D32). That a
control instruction presents `fetch_pc = p + 4`, and so this return address, is the model's own inference, log entry 18;
that the jump asserted in the tick is where the driver would go on is log entry 12. -/
def Obligations.ReturnOvertakenByInterrupt : Prop :=
  ∀ (s : State) (i : Instr) (k : InstrKind), i = .mret ∨ i = .sret → controlKind i = some k →
    noFlag (envInputs s.env) = true →
    noInterrupt s.params s.priv (snapshot s.params s.bank (controlInputs k s)) (controlInputs k s) = false →
    ∃ t, exec i s = .next t ∧ t.bank.cyc = s.bank.cyc + 1 ∧ DriverKept s t ∧
      if s.priv ≠ .machine ∧
          (snapshot s.params s.bank (controlInputs k s)).mideleg.getLsbD (intCode (envInputs s.env).irq).toNat = true
      then EnteredSupervisor s.priv (snapshot s.params s.bank (controlInputs k s)) true
        (intCode (envInputs s.env).irq)
        (if (envInputs s.env).jumpValid then (envInputs s.env).jumpTarget else s.pc + 4) 0 t.bank t.priv t.pc
      else EnteredMachine s.priv (snapshot s.params s.bank (controlInputs k s)) true
        (intCode (envInputs s.env).irq)
        (if (envInputs s.env).jumpValid then (envInputs s.env).jumpTarget else s.pc + 4) 0 t.bank t.priv t.pc

/-- The frame of ECALL, EBREAK, MRET and SRET whatever the environment presents: no general register, no parameter and no
byte of the program store changes, one tick passes, and with no ordinary write in the tick no register outside the
direct-write set changes, nor a reserved bit of `mstatus` or TSR. -/
def Obligations.ControlInstructionFrame : Prop :=
  ∀ (s t : State) (i : Instr) (k : InstrKind), controlKind i = some k → exec i s = .next t →
    DriverKept s t ∧ t.env = envAfter s.env ∧ t.outs.length = 1 ∧ t.bank.cyc = s.bank.cyc + 1 ∧
      ((envInputs s.env).csrWEn = false →
        SameOutsideDirectSet s.bank t.bank ∧
        ∀ j, j ∈ untrappedStatusBits → t.bank.mstatus.getLsbD j = s.bank.mstatus.getLsbD j)

/-! ### The CSR instructions -/

/-- CSRRW in a quiet environment: `x[rd]` takes the old value, the CSR takes `x[rs1]`, two ticks pass (R232 under the
reference driver of R231; the spec's own decisions D31 and D32). -/
def Obligations.CsrrwReadsThenWrites : Prop :=
  ∀ (s : State) (rd : Nat) (csr : CsrAddr) (rs1 : Nat), quietCsr s = true →
    ∃ t, exec (.csrrw rd csr rs1) s = .next t ∧ DriverWroteRd rd (csrRead s.params s.bank csr) s t ∧
      t.bank = { applyOrdinary s.params s.bank (some (csr, xRead s rs1)) with cyc := s.bank.cyc + 2 } ∧
      t.priv = s.priv ∧ t.pc = s.pc + 4 ∧ t.env = envAfter (envAfter s.env) ∧ t.outs.length = 2

/-- CSRRS in a quiet environment: the bits of `x[rs1]` are set, and `rs1 = x0` writes nothing (R233 under the reference
driver of R231; the spec's own decisions D31 and D32). -/
def Obligations.CsrrsReadsThenSets : Prop :=
  ∀ (s : State) (rd : Nat) (csr : CsrAddr) (rs1 : Nat), quietCsr s = true →
    ∃ t, exec (.csrrs rd csr rs1) s = .next t ∧ DriverWroteRd rd (csrRead s.params s.bank csr) s t ∧
      t.bank = { (if rs1 = 0 then s.bank else
        applyOrdinary s.params s.bank (some (csr, csrRead s.params s.bank csr ||| xRead s rs1))) with
          cyc := s.bank.cyc + 2 } ∧
      t.priv = s.priv ∧ t.pc = s.pc + 4 ∧ t.env = envAfter (envAfter s.env) ∧ t.outs.length = 2

/-- CSRRC in a quiet environment: the bits of `x[rs1]` are cleared, and `rs1 = x0` writes nothing (R234 under the
reference driver of R231; the spec's own decisions D31 and D32). -/
def Obligations.CsrrcReadsThenClears : Prop :=
  ∀ (s : State) (rd : Nat) (csr : CsrAddr) (rs1 : Nat), quietCsr s = true →
    ∃ t, exec (.csrrc rd csr rs1) s = .next t ∧ DriverWroteRd rd (csrRead s.params s.bank csr) s t ∧
      t.bank = { (if rs1 = 0 then s.bank else
        applyOrdinary s.params s.bank (some (csr, csrRead s.params s.bank csr &&& ~~~ xRead s rs1))) with
          cyc := s.bank.cyc + 2 } ∧
      t.priv = s.priv ∧ t.pc = s.pc + 4 ∧ t.env = envAfter (envAfter s.env) ∧ t.outs.length = 2

/-- CSRRWI in a quiet environment: the CSR takes the zero-extended immediate (R235, R111 under the reference driver of
R231; the spec's own decisions D31 and D32). -/
def Obligations.CsrrwiReadsThenWrites : Prop :=
  ∀ (s : State) (rd : Nat) (csr : CsrAddr) (zimm : BitVec 5), quietCsr s = true →
    ∃ t, exec (.csrrwi rd csr zimm) s = .next t ∧ DriverWroteRd rd (csrRead s.params s.bank csr) s t ∧
      t.bank = { applyOrdinary s.params s.bank (some (csr, BitVec.ofNat 32 zimm.toNat)) with
        cyc := s.bank.cyc + 2 } ∧
      t.priv = s.priv ∧ t.pc = s.pc + 4 ∧ t.env = envAfter (envAfter s.env) ∧ t.outs.length = 2

/-- CSRRSI in a quiet environment: the bits of the immediate are set, and `zimm = 0` writes nothing (R236, R111 under the
reference driver of R231; the spec's own decisions D31 and D32). -/
def Obligations.CsrrsiReadsThenSets : Prop :=
  ∀ (s : State) (rd : Nat) (csr : CsrAddr) (zimm : BitVec 5), quietCsr s = true →
    ∃ t, exec (.csrrsi rd csr zimm) s = .next t ∧ DriverWroteRd rd (csrRead s.params s.bank csr) s t ∧
      t.bank = { (if zimm = 0 then s.bank else applyOrdinary s.params s.bank
        (some (csr, csrRead s.params s.bank csr ||| BitVec.ofNat 32 zimm.toNat))) with cyc := s.bank.cyc + 2 } ∧
      t.priv = s.priv ∧ t.pc = s.pc + 4 ∧ t.env = envAfter (envAfter s.env) ∧ t.outs.length = 2

/-- CSRRCI in a quiet environment: the bits of the immediate are cleared, and `zimm = 0` writes nothing (R237, R111 under
the reference driver of R231; the spec's own decisions D31 and D32). -/
def Obligations.CsrrciReadsThenClears : Prop :=
  ∀ (s : State) (rd : Nat) (csr : CsrAddr) (zimm : BitVec 5), quietCsr s = true →
    ∃ t, exec (.csrrci rd csr zimm) s = .next t ∧ DriverWroteRd rd (csrRead s.params s.bank csr) s t ∧
      t.bank = { (if zimm = 0 then s.bank else applyOrdinary s.params s.bank
        (some (csr, csrRead s.params s.bank csr &&& ~~~ BitVec.ofNat 32 zimm.toNat))) with
          cyc := s.bank.cyc + 2 } ∧
      t.priv = s.priv ∧ t.pc = s.pc + 4 ∧ t.env = envAfter (envAfter s.env) ∧ t.outs.length = 2

/-- The six CSR instructions answer a next state whatever the environment presents, after two ticks and with the old value
of the CSR in `x[rd]`, and change no other general register, never `x0`, no parameter, no byte of the program store, and
no register that trap logic does not write unless the instruction's CSR shares its storage (R231 with the spec's own
decisions D31 and D32; that both ticks run and `x[rd]` is written where the read tick takes a trap too is read from R231,
which gives no condition, log entry 5). -/
def Obligations.CsrInstructionFrame : Prop :=
  ∀ (s : State) (i : Instr) (rd : Nat) (csr : CsrAddr), csrOperands i = some (rd, csr) →
    ∃ t, exec i s = .next t ∧ DriverWroteRd rd (csrRead s.params s.bank csr) s t ∧
      (∀ r, r ≠ rd → xRead t r = xRead s r) ∧ xRead t 0 = 0 ∧ t.params = s.params ∧
      (∀ a, Memory.read t.mem a = Memory.read s.mem a) ∧
      t.outs.length = 2 ∧ t.bank.cyc = s.bank.cyc + 2 ∧ t.env = envAfter (envAfter s.env) ∧
      ∀ a, a ∈ untrappedCsrs → shareStorage csr a = false →
        csrRead s.params t.bank a = csrRead s.params s.bank a

/-- A CSR instruction whose write tick traps, its read tick being quiet, under `DROP`: `x[rd]` has the old value, a write to
a register outside the direct-write set is lost, a write to a register or an `mstatus` bit of that set which the trap does
not change survives through the snapshot (of `mstatus`, all but MIE, MPIE and MPP on a trap into Machine and all but SIE,
SPIE and SPP on one into Supervisor), and the driver goes on at the handler (R231, R165, R166, R320, R321, R421; the
spec's own decisions D11, D12 and D32). -/
def Obligations.CsrWriteTickTrapDropsTheWrite : Prop :=
  ∀ (s t : State) (i : Instr) (rd : Nat) (csr : CsrAddr) (o : TickOutputs), csrOperands i = some (rd, csr) →
    s.params.ordinaryWriteOnTrapTick = .drop → quiet (envInputs s.env) = true → exec i s = .next t →
    t.outs.getLast? = some o → o.redirectValid = true →
      DriverWroteRd rd (csrRead s.params s.bank csr) s t ∧ SameOutsideDirectSet s.bank t.bank ∧
        TrapLeavesFromSnapshot s.priv
          (applyOrdinary s.params s.bank (csrPresentedWrite s (csrRead s.params s.bank csr) i)) t.bank t.priv ∧
        t.priv ≠ .user ∧ t.pc = o.redirectTarget

/-! ### The step -/

/-- Where the environment's next tick is not one without an instruction and the bytes at `pc` decode to `i`, the step is
`exec` of `i`: nothing else is done around it, and `i` is well-formed. That the bytes at `pc` are fetched untranslated, also
while `mmu_enable` is 1, is the model's own choice, log entry 20. -/
def Obligations.StepRunsDecodedInstruction : Prop :=
  ∀ (s : State) (bytes rest : List Byte) (i : Instr),
    (∀ inp env, s.env ≠ .noInstruction inp :: env) → fetch s = .ok bytes → decode bytes = .ok (i, rest) →
      step s = exec i s ∧ i.wf = true

/-- A step that runs no instruction: a tick of the environment alone, which always answers, and in which the driver
presents the identity `NONE` (R104) and `pc` as the fetch address and goes on there unless the tick redirects or jumps
(that the driver follows an asserted jump is the model's own inference, log entry 12); a word outside the contract is
refused by name (R113; that such a word stops the step is the model's own inference, log entry 13), and so the only other
stops are a fetched MRET with the reserved MPP (the spec's own decision D23) and the fetch of bytes that were never placed
(the model's own choice, log entry 4). -/
def Obligations.StepWithoutInstruction : Prop :=
  ∀ s : State,
    (∀ inp env, s.env = .noInstruction inp :: env →
      ∃ r t, tick s.params s.bank s.priv { inp with instrKind := 0, fetchPc := s.pc } = .ok r ∧ step s = .next t ∧
        t.bank = r.bank ∧ t.priv = r.priv ∧ t.env = env ∧ t.outs = [r.out] ∧ DriverKept s t ∧
        t.pc = (if r.out.redirectValid then r.out.redirectTarget
          else if inp.jumpValid then inp.jumpTarget else s.pc)) ∧
    (∀ bytes d, (∀ inp env, s.env ≠ .noInstruction inp :: env) → fetch s = .ok bytes → decode bytes = .error d →
      step s = .refused (.outsideContract d)) ∧
    (∀ f, step s = .fault f →
      (f = .reservedMPP ∧ ∃ bytes rest, fetch s = .ok bytes ∧ decode bytes = .ok (.mret, rest)) ∨
        (f = .fetchUnwritten ∧ fetch s = .error .fetchUnwritten))

/-- Every step keeps the invariant: the program store in canonical form, slot 0 of the register file 0, and the last
tick's outputs agreeing with the state (R52, R181, R424, R425; the driver's parts are the model's own, log entries 2, 4
and 6). -/
def Obligations.StepKeepsTheInvariant : Prop :=
  ∀ s t : State, StepInv s → step s = .next t → StepInv t

/-- The state after reset meets the invariant, for every value of the parameters. What the invariant says there, an empty
program store, slot 0 of the register file 0 and no earlier outputs, is the model's own choice, log entries 3, 4 and 19;
the spec's reset gives the block's registers only. -/
def Obligations.ResetMeetsTheInvariant : Prop :=
  ∀ p : Params, StepInv (State.resetWith p) ∧ StepInv State.reset

/-- No step changes the privilege unless one of its ticks asserted a redirect, and no step changes a parameter or the
program store (R341 "The mode changes only in the commit of a trap or a return", R340, R80). -/
def Obligations.StepChangesModeOnlyByRedirect : Prop :=
  ∀ s t : State, step s = .next t →
    t.params = s.params ∧ t.mem = s.mem ∧
      (t.priv ≠ s.priv → ∃ o, o ∈ t.outs ∧ o.redirectValid = true)

/-- A step is one tick or two, and the counter counts them, modulo `2^64` (R175, R440). That an instruction takes one tick
or two is R231's, the spec's own decision D32; that a step is an instruction with all its ticks is the model's own choice,
log entry 11, and that both ticks of a CSR instruction always run is log entry 5. -/
def Obligations.StepCountsItsTicks : Prop :=
  ∀ s t : State, step s = .next t →
    (t.outs.length = 1 ∨ t.outs.length = 2) ∧ t.bank.cyc = s.bank.cyc + BitVec.ofNat 64 t.outs.length

/-! ### The encoding -/

/-- Decoding an encoded well-formed instruction gives it back, as a word and as bytes with anything after them (R110 to
R112). -/
def Obligations.DecodeInvertsEncode : Prop :=
  ∀ (i : Instr) (rest : List Byte), i.wf = true →
    decodeWord (encode i) = .ok i ∧ decode (encodeBytes i ++ rest) = .ok (i, rest)

/-- Every word the decoder accepts is the encoding of the well-formed instruction it gives, so no two words mean the same
instruction and no reserved word is accepted (R112, R113). -/
def Obligations.EncodeInvertsDecode : Prop :=
  ∀ (w : Word) (i : Instr), decodeWord w = .ok i → i.wf = true ∧ encode i = w

/-- Words written out from R112 and from the examples of R232 to R237 decode to the instructions they stand for, and words
outside the contract are refused (R113). -/
def Obligations.WrittenOutWordsDecode : Prop :=
  decodeWord 0x00000073#32 = .ok .ecall ∧ decodeWord 0x00100073#32 = .ok .ebreak ∧
  decodeWord 0x10200073#32 = .ok .sret ∧ decodeWord 0x30200073#32 = .ok .mret ∧
  decodeWord 0x30529073#32 = .ok (.csrrw 0 0x305 5) ∧ decodeWord 0x300323F3#32 = .ok (.csrrs 7 0x300 6) ∧
  decodeWord 0x30033073#32 = .ok (.csrrc 0 0x300 6) ∧ decodeWord 0x30045073#32 = .ok (.csrrwi 0 0x300 8) ∧
  decodeWord 0x10016073#32 = .ok (.csrrsi 0 0x100 2) ∧ decodeWord 0x30047073#32 = .ok (.csrrci 0 0x300 8) ∧
  decodeWord 0x10500073#32 = .error .privilegedUnlisted ∧ decodeWord 0x00004073#32 = .error .funct3Unused ∧
  decodeWord 0x00000013#32 = .error .notSystem

/-- An instruction placed where the driver fetches next is what the very next step runs, at every address, the top of the
address space among them. This is the model's own: that the driver fetches at any alignment and wraps is log entry 7, the
byte order log entry 8, placing as the load of a program log entry 10, and fetching untranslated while `mmu_enable` is 1
log entry 20. -/
def Obligations.PlacedInstructionRuns : Prop :=
  ∀ (s : State) (i : Instr), i.wf = true →
    fetch (s.withFetchWord 32 (encode i).toNat) = .ok (encodeBytes i) ∧
      step (s.withFetchWord 32 (encode i).toNat) = exec i (s.withFetchWord 32 (encode i).toNat)
end

