-- ==== Sys2Proof/Laws/State.lean ====
section
/-!
SUPPORT. One lemma per field per update of the state and of the bank, and the small laws of the driver's registers.
-/

namespace Sys2Proof.Machine

/-! ### `State.afterTick` -/

section
variable (s : State) (env : List EnvTick) (ft : Word) (earlier : List TickOutputs) (inp : TickInputs) (r : TickResult)

@[simp] theorem State.afterTick_bank : (s.afterTick env ft earlier inp r).bank = r.bank := rfl
@[simp] theorem State.afterTick_priv : (s.afterTick env ft earlier inp r).priv = r.priv := rfl
@[simp] theorem State.afterTick_params : (s.afterTick env ft earlier inp r).params = s.params := rfl
@[simp] theorem State.afterTick_x : (s.afterTick env ft earlier inp r).x = s.x := rfl
@[simp] theorem State.afterTick_pc : (s.afterTick env ft earlier inp r).pc = nextFetch ft inp r.out := rfl
@[simp] theorem State.afterTick_mem : (s.afterTick env ft earlier inp r).mem = s.mem := rfl
@[simp] theorem State.afterTick_env : (s.afterTick env ft earlier inp r).env = env := rfl
@[simp] theorem State.afterTick_outs : (s.afterTick env ft earlier inp r).outs = earlier ++ [r.out] := rfl

end

/-! ### `xWrite` -/

section
variable (s : State) (rd : Nat) (v : Word)

@[simp] theorem xWrite_bank : (xWrite s rd v).bank = s.bank := rfl
@[simp] theorem xWrite_priv : (xWrite s rd v).priv = s.priv := rfl
@[simp] theorem xWrite_params : (xWrite s rd v).params = s.params := rfl
@[simp] theorem xWrite_pc : (xWrite s rd v).pc = s.pc := rfl
@[simp] theorem xWrite_mem : (xWrite s rd v).mem = s.mem := rfl
@[simp] theorem xWrite_env : (xWrite s rd v).env = s.env := rfl
@[simp] theorem xWrite_outs : (xWrite s rd v).outs = s.outs := rfl

end

/-! ### `State.afterCsrRead` -/

section
variable (s : State) (rd : Nat) (csr : CsrAddr) (r : TickResult)

@[simp] theorem State.afterCsrRead_bank : (s.afterCsrRead rd csr r).bank = r.bank := rfl
@[simp] theorem State.afterCsrRead_priv : (s.afterCsrRead rd csr r).priv = r.priv := rfl
@[simp] theorem State.afterCsrRead_params : (s.afterCsrRead rd csr r).params = s.params := rfl
@[simp] theorem State.afterCsrRead_pc :
    (s.afterCsrRead rd csr r).pc = nextFetch (s.pc + 4) (csrReadInputs s.env s.pc csr) r.out := rfl
@[simp] theorem State.afterCsrRead_mem : (s.afterCsrRead rd csr r).mem = s.mem := rfl
@[simp] theorem State.afterCsrRead_env : (s.afterCsrRead rd csr r).env = envAfter s.env := rfl
@[simp] theorem State.afterCsrRead_outs : (s.afterCsrRead rd csr r).outs = [r.out] := rfl

end

/-! ### The driver's registers -/

/-- `x0` reads as zero. -/
@[simp] theorem xRead_zero (s : State) : xRead s 0 = 0 := rfl

/-- A write to `x0` changes nothing. -/
@[simp] theorem xWrite_zero (s : State) (v : Word) : xWrite s 0 v = s := rfl

/-- Reading after a write: the written value at `rd`, unless `rd` is `x0`; the old value elsewhere. -/
theorem xRead_xWrite (s : State) (rd r : Nat) (v : Word) (hr : r < 32) :
    xRead (xWrite s rd v) r = if r = rd ∧ r ≠ 0 then v else xRead s r := by
  by_cases h0 : r = 0
  · subst h0; simp
  · by_cases hd : rd = 0
    · subst hd; simp [h0]
    · by_cases he : r = rd
      · subst he; simp [xRead, xWrite, h0, hr]
      · have : ¬ rd = r := fun h => he h.symm
        simp [xRead, xWrite, h0, hd, he, this, Vector.getElem?_setIfInBounds_ne]

/-- A write to another register leaves a register as it was. -/
theorem xRead_xWrite_ne (s : State) (rd r : Nat) (v : Word) (h : r ≠ rd) :
    xRead (xWrite s rd v) r = xRead s r := by
  by_cases h0 : r = 0
  · subst h0; simp
  · by_cases hd : rd = 0
    · subst hd; simp
    · simp [xRead, xWrite, h0, hd, Vector.getElem?_setIfInBounds_ne (Ne.symm h)]

/-- What a register reads as depends on the register file alone. -/
theorem xRead_congr (s t : State) (h : t.x = s.x) (r : Nat) : xRead t r = xRead s r := by
  simp [xRead, h]

/-- No write changes the driver's slot 0. -/
theorem xWrite_slot_zero (s : State) (rd : Nat) (v : Word) : (xWrite s rd v).x[0]? = s.x[0]? := by
  by_cases hd : rd = 0
  · subst hd; rfl
  · simp [xWrite, hd]

/-! ### `State.withFetchWord` -/

section
variable (s : State) (nbits w : Nat)

@[simp] theorem State.withFetchWord_bank : (s.withFetchWord nbits w).bank = s.bank := rfl
@[simp] theorem State.withFetchWord_priv : (s.withFetchWord nbits w).priv = s.priv := rfl
@[simp] theorem State.withFetchWord_params : (s.withFetchWord nbits w).params = s.params := rfl
@[simp] theorem State.withFetchWord_x : (s.withFetchWord nbits w).x = s.x := rfl
@[simp] theorem State.withFetchWord_pc : (s.withFetchWord nbits w).pc = s.pc := rfl
@[simp] theorem State.withFetchWord_outs : (s.withFetchWord nbits w).outs = s.outs := rfl

end

/-! ### The bank's updates -/

section
variable (b : Bank) (v : DirectWrite)

@[simp] theorem applyDirect_mstatus : (applyDirect b v).mstatus = v.mstatus := rfl
@[simp] theorem applyDirect_mepc : (applyDirect b v).mepc = v.mepc := rfl
@[simp] theorem applyDirect_mcause : (applyDirect b v).mcause = v.mcause := rfl
@[simp] theorem applyDirect_mtval : (applyDirect b v).mtval = v.mtval := rfl
@[simp] theorem applyDirect_sepc : (applyDirect b v).sepc = v.sepc := rfl
@[simp] theorem applyDirect_scause : (applyDirect b v).scause = v.scause := rfl
@[simp] theorem applyDirect_stval : (applyDirect b v).stval = v.stval := rfl
@[simp] theorem applyDirect_mtvec : (applyDirect b v).mtvec = b.mtvec := rfl
@[simp] theorem applyDirect_stvec : (applyDirect b v).stvec = b.stvec := rfl
@[simp] theorem applyDirect_medeleg : (applyDirect b v).medeleg = b.medeleg := rfl
@[simp] theorem applyDirect_mideleg : (applyDirect b v).mideleg = b.mideleg := rfl
@[simp] theorem applyDirect_mie : (applyDirect b v).mie = b.mie := rfl
@[simp] theorem applyDirect_mscratch : (applyDirect b v).mscratch = b.mscratch := rfl
@[simp] theorem applyDirect_sscratch : (applyDirect b v).sscratch = b.sscratch := rfl
@[simp] theorem applyDirect_satp : (applyDirect b v).satp = b.satp := rfl
@[simp] theorem applyDirect_cyc : (applyDirect b v).cyc = b.cyc := rfl

end

end Sys2Proof.Machine
end

