-- ==== Sys2Proof/Laws/Block.lean ====
section
/-!
SUPPORT. What each shared operation of the block can do, said once: the bits of a status word, the port operations, the
effect of a decision and the tick.
-/

namespace Sys2Proof.Machine

/-! ### Bits of a status word -/

/-- `putBit` sets one bit and keeps every other. -/
theorem putBit_getLsbD (w : Word) (i j : Nat) (b : Bool) (hi : i < 32) :
    (putBit w i b).getLsbD j = if j = i then b else w.getLsbD j := by
  have hone : (1#32 <<< i).getLsbD j = decide (j = i) := by
    simp only [BitVec.getLsbD_shiftLeft, BitVec.getLsbD_one]
    by_cases h : j = i
    · subst h; simp [hi]
    · by_cases hlt : j < i
      · simp [hlt, h]
      · have : ¬ j - i = 0 := by omega
        simp [this, h]
  cases b <;> simp only [putBit, if_true, Bool.false_eq_true, if_false, BitVec.getLsbD_or, BitVec.getLsbD_and,
    BitVec.getLsbD_not, hone]
  · by_cases h : j = i
    · subst h; simp
    · by_cases hj : j < 32
      · simp [h, hj]
      · simp [h, BitVec.getLsbD_of_ge w j (by omega)]
  · by_cases h : j = i <;> simp [h]

/-- `putMpp` sets bits 12:11 and keeps every other bit. -/
theorem putMpp_getLsbD (w : Word) (v : BitVec 2) (j : Nat) :
    (putMpp w v).getLsbD j = if j = 12 then v.getLsbD 1 else if j = 11 then v.getLsbD 0 else w.getLsbD j := by
  simp [putMpp, putBit_getLsbD]

/-- The MPP field of a word is its bits 11 and 12. -/
theorem statusMpp_getLsbD (w : Word) (j : Nat) (hj : j < 2) : (statusMpp w).getLsbD j = w.getLsbD (11 + j) := by
  simp [statusMpp, hj]

/-- The privilege encoding is the inverse of its decoding. -/
@[simp] theorem privOfBits_privBits (p : Priv) : privOfBits (privBits p) = some p := by cases p <;> rfl

/-- A two-bit value that encodes a privilege is that privilege's encoding. -/
theorem privBits_of_privOfBits (v : BitVec 2) (p : Priv) (h : privOfBits v = some p) : privBits p = v := by
  unfold privOfBits at h
  split at h
  · cases h; simp_all [privBits]
  · split at h
    · cases h; simp_all [privBits]
    · split at h
      · cases h; simp_all [privBits]
      · cases h

/-- The driver's encoding of an identity is read back by the block. -/
@[simp] theorem kindOfBits_kindBits (k : InstrKind) : kindOfBits (kindBits k) = k := by cases k <;> rfl

/-- Every bit after entry into Machine (R320). -/
theorem statusEnterM_getLsbD (m : Word) (priv : Priv) (j : Nat) : (statusEnterM m priv).getLsbD j =
    if j = 12 then (privBits priv).getLsbD 1
    else if j = 11 then (privBits priv).getLsbD 0
    else if j = 3 then false
    else if j = 7 then statusMie m
    else m.getLsbD j := by
  simp only [statusEnterM, putMpp_getLsbD, putBit_getLsbD _ 7 _ _ (by decide), putBit_getLsbD _ 3 _ _ (by decide)]

/-- Every bit after entry into Supervisor (R321). -/
theorem statusEnterS_getLsbD (m : Word) (priv : Priv) (j : Nat) : (statusEnterS m priv).getLsbD j =
    if j = 8 then priv == .supervisor
    else if j = 1 then false
    else if j = 5 then statusSie m
    else m.getLsbD j := by
  simp only [statusEnterS, putBit_getLsbD _ 8 _ _ (by decide), putBit_getLsbD _ 5 _ _ (by decide),
    putBit_getLsbD _ 1 _ _ (by decide)]

/-- Every bit after a return from a machine trap (R205). -/
theorem statusReturnM_getLsbD (m : Word) (np : Priv) (j : Nat) : (statusReturnM m np).getLsbD j =
    if j = 17 then np == .machine && statusMprv m
    else if j = 12 then false
    else if j = 11 then false
    else if j = 7 then true
    else if j = 3 then statusMpie m
    else m.getLsbD j := by
  simp only [statusReturnM, putMpp_getLsbD, putBit_getLsbD _ 7 _ _ (by decide), putBit_getLsbD _ 3 _ _ (by decide),
    putBit_getLsbD _ 17 _ _ (by decide)]
  rfl

/-- Every bit after a return from a supervisor trap (R209). -/
theorem statusReturnS_getLsbD (m : Word) (j : Nat) : (statusReturnS m).getLsbD j =
    if j = 17 then false
    else if j = 8 then false
    else if j = 5 then true
    else if j = 1 then statusSpie m
    else m.getLsbD j := by
  simp only [statusReturnS, putBit_getLsbD _ 1 _ _ (by decide), putBit_getLsbD _ 5 _ _ (by decide),
    putBit_getLsbD _ 17 _ _ (by decide), putBit_getLsbD _ 8 _ _ (by decide)]

/-- A word whose bits 12 and 11 are those of `v` has MPP `v`. -/
theorem statusMpp_eq (w : Word) (v : BitVec 2) (h1 : w.getLsbD 12 = v.getLsbD 1) (h0 : w.getLsbD 11 = v.getLsbD 0) :
    statusMpp w = v := by
  apply BitVec.eq_of_getLsbD_eq
  intro i hi
  rw [statusMpp_getLsbD w i hi]
  obtain rfl | rfl : i = 0 ∨ i = 1 := by omega
  · exact h0
  · exact h1

/-- Only `0b10` encodes no privilege (R30). -/
theorem privOfBits_eq_none (v : BitVec 2) : privOfBits v = none ↔ v = 0b10#2 := by
  revert v; decide

/-! ### The port operations -/

/-- A mapped address stands in the map with its register; any other is unmapped (R102). -/
theorem csrAt_cases (a : CsrAddr) : (∃ c, (a, c) ∈ csrMap ∧ csrAt a = some c) ∨ csrAt a = none := by
  cases h : csrAt a with
  | none => exact .inr rfl
  | some c =>
    refine .inl ⟨c, ?_, rfl⟩
    have key : ∀ l : List (CsrAddr × Csr), l.lookup a = some c → (a, c) ∈ l := by
      intro l
      induction l with
      | nil => intro hl; cases hl
      | cons x l ih =>
        obtain ⟨a', c'⟩ := x
        intro hl
        simp only [List.lookup] at hl
        split at hl
        · rename_i e; cases hl; rw [eq_of_beq e]; exact List.mem_cons_self
        · exact List.mem_cons_of_mem _ (ih hl)
    exact key csrMap h

/-- An ordinary write to an address is the store of the register it names, or nothing. -/
theorem applyOrdinary_cases (p : Params) (b : Bank) (w : Option (CsrAddr × Word)) :
    applyOrdinary p b w = b ∨
      ∃ a d c, w = some (a, d) ∧ csrAt a = some c ∧ applyOrdinary p b w = csrStore p b d c := by
  cases w with
  | none => exact .inl rfl
  | some v =>
    obtain ⟨a, d⟩ := v
    cases h : csrAt a with
    | none => left; simp [applyOrdinary, h]
    | some c => right; exact ⟨a, d, c, rfl, h, by simp [applyOrdinary, h]⟩

/-- No ordinary write changes the cycle counter (R46, R161). -/
@[simp] theorem applyOrdinary_cyc (p : Params) (b : Bank) (w : Option (CsrAddr × Word)) :
    (applyOrdinary p b w).cyc = b.cyc := by
  rcases applyOrdinary_cases p b w with h | ⟨a, d, c, -, -, h⟩
  · rw [h]
  · rw [h]; cases c <;> rfl

/-- With the write enable off, the snapshot is the stored bank (R155). -/
theorem snapshot_of_no_write (p : Params) (b : Bank) (inp : TickInputs) (h : inp.csrWEn = false) :
    snapshot p b inp = b := by
  simp [snapshot, ordinaryWrite, h, applyOrdinary]

/-- With the write enable on, the snapshot is the bank with the addressed register written (R155). -/
theorem snapshot_of_write (p : Params) (b : Bank) (inp : TickInputs) (h : inp.csrWEn = true) :
    snapshot p b inp = applyOrdinary p b (some (inp.csrWAddr, inp.csrWData)) := by
  simp [snapshot, ordinaryWrite, h]

/-! ### The effect of a decision -/

/-- Taking a trap asserts a direct write and the redirect. -/
theorem takeTrap_asserts (target priv : Priv) (snap : Bank) (intr : Bool) (code : Code) (epc tval : Word) :
    (takeTrap target priv snap intr code epc tval).redirectValid = true ∧
      (takeTrap target priv snap intr code epc tval).dw.isSome = true := by
  cases target <;> exact ⟨rfl, rfl⟩

/-- An effect asserts its redirect exactly when it asserts a direct write, and that is when the decision is not
`noTrap`. -/
theorem effect_asserts (dec : Decision) (priv : Priv) (snap : Bank) (e : Effect)
    (h : effect dec priv snap = .ok e) :
    (e.redirectValid = true ↔ dec ≠ .noTrap) ∧ e.dw.isSome = e.redirectValid := by
  cases dec with
  | excTrap c epc tval =>
    cases h
    have := takeTrap_asserts (excTarget priv snap c) priv snap false c epc tval
    simp [this.1, this.2]
  | intTrap c epc =>
    cases h
    have := takeTrap_asserts (intTarget priv snap c) priv snap true c epc 0
    exact ⟨⟨fun _ => by simp, fun _ => this.1⟩, this.2.trans this.1.symm⟩
  | mret =>
    simp only [effect, returnFromM] at h
    split at h
    · cases h; simp
    · cases h
  | sret => cases h; simp [returnFromS]
  | noTrap => cases h; simp

/-- The only fault of an effect is the return from machine trap whose MPP encodes no privilege (R185, R206). -/
theorem effect_error (dec : Decision) (priv : Priv) (snap : Bank) (f : Fault)
    (h : effect dec priv snap = .error f) :
    dec = .mret ∧ privOfBits (statusMpp snap.mstatus) = none ∧ f = .reservedMPP := by
  cases dec with
  | mret =>
    simp only [effect, returnFromM] at h
    split at h
    · cases h
    · rename_i hn; cases h; exact ⟨rfl, hn, rfl⟩
  | excTrap | intTrap | sret | noTrap => cases h

/-! ### The commit -/

/-- A direct write leaves its seven values in the seven registers of `DIRECT_SET` (R164). -/
theorem commitBank_direct (p : Params) (b : Bank) (inp : TickInputs) (v : DirectWrite) :
    (commitBank p b inp (some v)).mstatus = v.mstatus ∧ (commitBank p b inp (some v)).mepc = v.mepc ∧
      (commitBank p b inp (some v)).mcause = v.mcause ∧ (commitBank p b inp (some v)).mtval = v.mtval ∧
      (commitBank p b inp (some v)).sepc = v.sepc ∧ (commitBank p b inp (some v)).scause = v.scause ∧
      (commitBank p b inp (some v)).stval = v.stval := by
  unfold commitBank
  cases p.ordinaryWriteOnTrapTick <;> exact ⟨rfl, rfl, rfl, rfl, rfl, rfl, rfl⟩

/-- Every commit advances the counter by one (R175). -/
@[simp] theorem commitBank_cyc (p : Params) (b : Bank) (inp : TickInputs) (dw : Option DirectWrite) :
    (commitBank p b inp dw).cyc = b.cyc + 1 := by
  cases dw with
  | none => rfl
  | some v => unfold commitBank; cases p.ordinaryWriteOnTrapTick <;> rfl

/-! ### The tick -/

/-- A tick that answers commits the effect of its decision. -/
theorem tick_ok (p : Params) (b : Bank) (priv : Priv) (inp : TickInputs) (r : TickResult)
    (h : tick p b priv inp = .ok r) :
    ∃ e, effect (arbitrate p priv (snapshot p b inp) inp) priv (snapshot p b inp) = .ok e ∧
      r = commit p b priv inp e := by
  unfold tick at h
  split at h
  · cases h
  · rename_i e he; cases h; exact ⟨e, he, rfl⟩

/-- The read port of a tick that answers shows the forwarded snapshot (R151, R155). -/
theorem tick_csrRData (p : Params) (b : Bank) (priv : Priv) (inp : TickInputs) (r : TickResult)
    (h : tick p b priv inp = .ok r) : r.out.csrRData = csrRead p (snapshot p b inp) inp.csrRAddr := by
  obtain ⟨e, -, rfl⟩ := tick_ok _ _ _ _ _ h
  rfl

/-- A tick whose decision has an effect commits it. -/
theorem tick_of_effect (p : Params) (b : Bank) (priv : Priv) (inp : TickInputs) (e : Effect)
    (h : effect (arbitrate p priv (snapshot p b inp) inp) priv (snapshot p b inp) = .ok e) :
    tick p b priv inp = .ok (commit p b priv inp e) := by
  simp [tick, h]

/-- A tick that faults decided on a return from machine trap whose forwarded MPP encodes no privilege. -/
theorem tick_error (p : Params) (b : Bank) (priv : Priv) (inp : TickInputs) (f : Fault)
    (h : tick p b priv inp = .error f) :
    arbitrate p priv (snapshot p b inp) inp = .mret ∧
      privOfBits (statusMpp (snapshot p b inp).mstatus) = none ∧ f = .reservedMPP := by
  unfold tick at h
  split at h
  · rename_i f' hf; cases h; exact effect_error _ _ _ _ hf
  · cases h

/-- Only the MRET identity is decided as a return from machine trap (R300). -/
theorem arbitrate_mret (p : Params) (priv : Priv) (snap : Bank) (inp : TickInputs)
    (h : arbitrate p priv snap inp = .mret) : kindOfBits inp.instrKind = .mret := by
  unfold arbitrate at h
  repeat' split at h
  all_goals cases h
  all_goals exact eq_of_beq ‹_›

/-- A tick that does not present the MRET identity answers. -/
theorem tick_answers (p : Params) (b : Bank) (priv : Priv) (inp : TickInputs)
    (h : kindOfBits inp.instrKind ≠ .mret) : ∃ r, tick p b priv inp = .ok r := by
  cases ht : tick p b priv inp with
  | ok r => exact ⟨r, rfl⟩
  | error f => exact absurd (arbitrate_mret _ _ _ _ (tick_error _ _ _ _ _ ht).1) h

/-- A tick that decides on no trap commits the ordinary write alone (R163, R360). -/
theorem tick_noTrap (p : Params) (b : Bank) (priv : Priv) (inp : TickInputs) (r : TickResult)
    (h : tick p b priv inp = .ok r) (hn : arbitrate p priv (snapshot p b inp) inp = .noTrap) :
    r.out.redirectValid = false ∧ r.priv = priv ∧ r.bank = { snapshot p b inp with cyc := b.cyc + 1 } := by
  obtain ⟨e, he, rfl⟩ := tick_ok _ _ _ _ _ h
  rw [hn] at he
  cases he
  exact ⟨rfl, rfl, rfl⟩

/-- What becomes of `satp` in a commit (R166). -/
theorem commitBank_satp (p : Params) (b : Bank) (inp : TickInputs) (dw : Option DirectWrite) :
    (commitBank p b inp dw).satp =
      if dw.isSome = true ∧ p.ordinaryWriteOnTrapTick = .drop then b.satp else (snapshot p b inp).satp := by
  cases dw with
  | none => simp [commitBank]
  | some v => cases h : p.ordinaryWriteOnTrapTick <;> simp [commitBank, h]

end Sys2Proof.Machine
end

