-- ==== Sys2Proof/Laws/Driver.lean ====
section
/-!
SUPPORT. What the driver's operations can do, said once: if one answers a next state, then it is this one.
-/

namespace Sys2Proof.Machine

/-- A control instruction that answers ran one tick. -/
theorem execControl_next (k : InstrKind) (s t : State) (h : execControl k s = .next t) :
    ∃ r, tick s.params s.bank s.priv (controlInputs k s) = .ok r ∧
      t = s.afterTick (envAfter s.env) (s.pc + 4) [] (controlInputs k s) r := by
  unfold execControl at h
  split at h
  · cases h
  · rename_i r hr; cases h; exact ⟨r, hr, rfl⟩

/-- A control instruction whose tick answers answers. -/
theorem execControl_of_tick (k : InstrKind) (s : State) (r : TickResult)
    (h : tick s.params s.bank s.priv (controlInputs k s) = .ok r) :
    execControl k s = .next (s.afterTick (envAfter s.env) (s.pc + 4) [] (controlInputs k s) r) := by
  simp [execControl, h]

/-- A tick without an instruction that answers ran one tick. -/
theorem idleTick_next (inp : TickInputs) (rest : List EnvTick) (s t : State) (h : idleTick inp rest s = .next t) :
    ∃ r, tick s.params s.bank s.priv (idleInputs inp s) = .ok r ∧
      t = s.afterTick rest s.pc [] (idleInputs inp s) r := by
  unfold idleTick at h
  split at h
  · cases h
  · rename_i r hr; cases h; exact ⟨r, hr, rfl⟩

/-- A tick without an instruction answers, because it presents the identity `NONE`, and is one tick. -/
theorem idleTick_answers (inp : TickInputs) (rest : List EnvTick) (s : State) :
    ∃ r, tick s.params s.bank s.priv (idleInputs inp s) = .ok r ∧
      idleTick inp rest s = .next (s.afterTick rest s.pc [] (idleInputs inp s) r) := by
  obtain ⟨r, hr⟩ := tick_answers s.params s.bank s.priv (idleInputs inp s) (by simp [idleInputs])
  exact ⟨r, hr, by simp [idleTick, hr]⟩

/-- The read tick of a CSR instruction answers. -/
theorem csrReadTick_answers (s : State) (p : Word) (csr : CsrAddr) :
    ∃ r, tick s.params s.bank s.priv (csrReadInputs s.env p csr) = .ok r :=
  tick_answers _ _ _ _ (by simp [csrReadInputs])

/-- The write tick of a CSR instruction answers, and what its state is. -/
theorem csrWriteTick_next (p : Word) (csr : CsrAddr) (we : Bool) (new : Word) (s : State) :
    ∃ r, tick s.params s.bank s.priv (csrWriteInputs s.env p csr we new) = .ok r ∧
      csrWriteTick p csr we new s =
        .next (s.afterTick (envAfter s.env) s.pc s.outs (csrWriteInputs s.env p csr we new) r) := by
  obtain ⟨r, hr⟩ := tick_answers s.params s.bank s.priv (csrWriteInputs s.env p csr we new)
    (by simp [csrWriteInputs])
  exact ⟨r, hr, by simp [csrWriteTick, hr]⟩

/-- What a CSR instruction does, in every state: its read tick answers, reading the stored bank, and then its write tick
answers, over the state in which `x[rd]` has the old value. -/
theorem execCsr_next (rd : Nat) (csr : CsrAddr) (we : Bool) (new : Word → Word) (s : State) :
    ∃ r r₂, tick s.params s.bank s.priv (csrReadInputs s.env s.pc csr) = .ok r ∧
      r.out.csrRData = csrRead s.params s.bank csr ∧
      tick s.params r.bank r.priv (csrWriteInputs (envAfter s.env) s.pc csr we (new r.out.csrRData)) = .ok r₂ ∧
      execCsr rd csr we new s =
        .next ((s.afterCsrRead rd csr r).afterTick (envAfter (envAfter s.env)) (s.afterCsrRead rd csr r).pc [r.out]
          (csrWriteInputs (envAfter s.env) s.pc csr we (new r.out.csrRData)) r₂) := by
  obtain ⟨r, hr⟩ := csrReadTick_answers s s.pc csr
  obtain ⟨r₂, hr₂, hw⟩ := csrWriteTick_next s.pc csr we (new r.out.csrRData) (s.afterCsrRead rd csr r)
  refine ⟨r, r₂, hr, ?_, hr₂, by simp only [execCsr, hr]; exact hw⟩
  rw [tick_csrRData _ _ _ _ _ hr, snapshot_of_no_write _ _ _ rfl]
  rfl

/-- A CSR instruction is `execCsr` with some write enable and some new value. -/
theorem exec_of_csrOperands (i : Instr) (rd : Nat) (csr : CsrAddr) (h : csrOperands i = some (rd, csr)) (s : State) :
    ∃ we new, exec i s = execCsr rd csr we new s := by
  cases i <;> cases h
  case csrrw rs1 => exact ⟨true, fun _ => xRead s rs1, rfl⟩
  case csrrs rs1 => exact ⟨rs1 != 0, fun old => csrSetBits old (xRead s rs1), rfl⟩
  case csrrc rs1 => exact ⟨rs1 != 0, fun old => csrClearBits old (xRead s rs1), rfl⟩
  case csrrwi zimm => exact ⟨true, fun _ => zimmWord zimm, rfl⟩
  case csrrsi zimm => exact ⟨zimm != 0, fun old => csrSetBits old (zimmWord zimm), rfl⟩
  case csrrci zimm => exact ⟨zimm != 0, fun old => csrClearBits old (zimmWord zimm), rfl⟩

/-- A control instruction is `execControl` with the identity it presents. -/
theorem exec_of_controlKind (i : Instr) (k : InstrKind) (h : controlKind i = some k) (s : State) :
    exec i s = execControl k s := by
  cases i <;> cases h <;> rfl

/-- A step is the environment's next tick without an instruction, or runs what stands at `pc`. -/
theorem step_cases (s : State) :
    (∃ inp rest, s.env = .noInstruction inp :: rest ∧ step s = idleTick inp rest s) ∨
      ((∀ inp rest, s.env ≠ .noInstruction inp :: rest) ∧ step s = runNext s) := by
  unfold step
  split
  · rename_i inp rest h; exact .inl ⟨inp, rest, h, rfl⟩
  · rename_i h; exact .inr ⟨fun inp rest he => h inp rest he, rfl⟩

end Sys2Proof.Machine
end

