-- ==== Sys2Proof/Laws/Memory.lean ====
section
/-!
SUPPORT. The laws of the program store: reading after a write, and that every operation keeps the canonical form.
-/

namespace Sys2Proof.Machine

/-- Reading back the address just written. -/
@[simp] theorem Memory.read_write_same (m : List Host.Cell) (a : Nat) (b : Byte) :
    Memory.read (Memory.write m a b) a = some b := by
  induction m with
  | nil => simp [Memory.write, Memory.read]
  | cons c rest ih =>
    obtain ⟨a', b'⟩ := c
    unfold Memory.write
    split
    · simp [Memory.read]
    · split
      · simp [Memory.read]
      · have h : (a == a') = false := by simpa using ‹¬ a = a'›
        simpa [Memory.read, List.lookup, h] using ih

/-- A write leaves every other address as it was. -/
theorem Memory.read_write_ne (m : List Host.Cell) (a a₂ : Nat) (b : Byte) (h : a₂ ≠ a) :
    Memory.read (Memory.write m a b) a₂ = Memory.read m a₂ := by
  have hne : (a₂ == a) = false := by simpa using h
  induction m with
  | nil => simp [Memory.write, Memory.read, List.lookup, hne]
  | cons c rest ih =>
    obtain ⟨a', b'⟩ := c
    unfold Memory.write
    split
    · simp [Memory.read, List.lookup, hne]
    · split
      · rename_i heq; subst heq; simp [Memory.read, List.lookup, hne]
      · simp only [Memory.read, List.lookup]
        split
        · rfl
        · exact ih

/-- A larger lower bound is the stronger form. -/
theorem Memory.wfFrom_mono (m : List Host.Cell) (lo lo' : Nat) (h : lo ≤ lo') (hw : Memory.wfFrom lo' m = true) :
    Memory.wfFrom lo m = true := by
  cases m with
  | nil => rfl
  | cons c rest =>
    obtain ⟨a, b⟩ := c
    simp only [Memory.wfFrom, Bool.and_eq_true, decide_eq_true_eq] at hw ⊢
    exact ⟨⟨le_trans h hw.1.1, hw.1.2⟩, hw.2⟩

/-- A write keeps the canonical form from `lo` on. -/
theorem Memory.wfFrom_write (m : List Host.Cell) (lo a : Nat) (b : Byte) (hlo : lo ≤ a) (ha : a < 2 ^ 32)
    (hw : Memory.wfFrom lo m = true) : Memory.wfFrom lo (Memory.write m a b) = true := by
  induction m generalizing lo with
  | nil => simp [Memory.write, Memory.wfFrom, hlo]; omega
  | cons c rest ih =>
    obtain ⟨a', b'⟩ := c
    simp only [Memory.wfFrom, Bool.and_eq_true, decide_eq_true_eq] at hw
    unfold Memory.write
    split
    · rename_i hlt
      simp only [Memory.wfFrom, Bool.and_eq_true, decide_eq_true_eq]
      exact ⟨⟨hlo, ha⟩, ⟨by omega, hw.1.2⟩, hw.2⟩
    · split
      · rename_i heq
        simp only [Memory.wfFrom, Bool.and_eq_true, decide_eq_true_eq]
        exact ⟨⟨hlo, ha⟩, heq ▸ hw.2⟩
      · simp only [Memory.wfFrom, Bool.and_eq_true, decide_eq_true_eq]
        exact ⟨hw.1, ih _ (by omega) hw.2⟩

/-- Every write keeps the canonical form. -/
theorem Memory.wf_write (m : List Host.Cell) (a : Nat) (b : Byte) (ha : a < 2 ^ 32) (hw : Memory.wf m = true) :
    Memory.wf (Memory.write m a b) = true :=
  Memory.wfFrom_write m 0 a b (Nat.zero_le a) ha hw

/-- Storing several bytes keeps the canonical form. -/
theorem Memory.wf_writeBytes (bs : List Byte) (m : List Host.Cell) (a : Word) (hw : Memory.wf m = true) :
    Memory.wf (Memory.writeBytes m a bs) = true := by
  induction bs generalizing m a with
  | nil => exact hw
  | cons b bs ih => exact ih _ _ (Memory.wf_write m a.toNat b a.isLt hw)

end Sys2Proof.Machine
end

