-- ==== Sys2Proof/Laws/PerInstr.lean ====
section
/-!
SUPPORT. A law of every instruction's encoding: its word agrees with the match and mask of its row of
`spec/opcode_table.json`.
-/

namespace Sys2Proof.Laws

/-- The mask of the instruction's row. -/
def rowMask : Instr → Word
  | .ecall | .ebreak | .sret | .mret => 0xFFFFFFFF
  | .csrrw _ _ _ | .csrrs _ _ _ | .csrrc _ _ _ | .csrrwi _ _ _ | .csrrsi _ _ _ | .csrrci _ _ _ => 0x0000707F

/-- The match of the instruction's row. -/
def rowMatch : Instr → Word
  | .ecall => 0x00000073
  | .ebreak => 0x00100073
  | .sret => 0x10200073
  | .mret => 0x30200073
  | .csrrw _ _ _ => 0x00001073
  | .csrrs _ _ _ => 0x00002073
  | .csrrc _ _ _ => 0x00003073
  | .csrrwi _ _ _ => 0x00005073
  | .csrrsi _ _ _ => 0x00006073
  | .csrrci _ _ _ => 0x00007073

/-- The bits of a system word under the mask of the CSR rows. -/
theorem systemWord_and_csrMask (csr : BitVec 12) (rs1 : BitVec 5) (funct3 : BitVec 3) (rd : BitVec 5) :
    systemWord csr rs1 funct3 rd &&& 0x0000707F =
      (funct3.setWidth 32 <<< 12) ||| 0x00000073 := by
  ext i hi
  simp only [systemWord, BitVec.getElem_and, BitVec.getElem_append, BitVec.getElem_or, BitVec.getElem_shiftLeft,
    BitVec.getElem_setWidth]
  interval_cases i <;> simp [BitVec.getLsbD_eq_getElem]

namespace EncodeMatchesRow

/-- The encoded word, under its row's mask, is its row's match. -/
def Statement (i : Instr) : Prop := encode i &&& rowMask i = rowMatch i

theorem ecall : Statement .ecall := by unfold Statement; decide
theorem ebreak : Statement .ebreak := by unfold Statement; decide
theorem sret : Statement .sret := by unfold Statement; decide
theorem mret : Statement .mret := by unfold Statement; decide
theorem csrrw (rd : Nat) (csr : CsrAddr) (rs1 : Nat) : Statement (.csrrw rd csr rs1) :=
  (systemWord_and_csrMask csr (BitVec.ofNat 5 rs1) 0b001 (BitVec.ofNat 5 rd)).trans rfl
theorem csrrs (rd : Nat) (csr : CsrAddr) (rs1 : Nat) : Statement (.csrrs rd csr rs1) :=
  (systemWord_and_csrMask csr (BitVec.ofNat 5 rs1) 0b010 (BitVec.ofNat 5 rd)).trans rfl
theorem csrrc (rd : Nat) (csr : CsrAddr) (rs1 : Nat) : Statement (.csrrc rd csr rs1) :=
  (systemWord_and_csrMask csr (BitVec.ofNat 5 rs1) 0b011 (BitVec.ofNat 5 rd)).trans rfl
theorem csrrwi (rd : Nat) (csr : CsrAddr) (zimm : BitVec 5) : Statement (.csrrwi rd csr zimm) :=
  (systemWord_and_csrMask csr zimm 0b101 (BitVec.ofNat 5 rd)).trans rfl
theorem csrrsi (rd : Nat) (csr : CsrAddr) (zimm : BitVec 5) : Statement (.csrrsi rd csr zimm) :=
  (systemWord_and_csrMask csr zimm 0b110 (BitVec.ofNat 5 rd)).trans rfl
theorem csrrci (rd : Nat) (csr : CsrAddr) (zimm : BitVec 5) : Statement (.csrrci rd csr zimm) :=
  (systemWord_and_csrMask csr zimm 0b111 (BitVec.ofNat 5 rd)).trans rfl

end EncodeMatchesRow

end Sys2Proof.Laws
end

