-- ==== Sys2Proof/Laws/Trap.lean ====
section
/-!
SUPPORT. What a committed trap entry and a committed return leave, in the terms of `Sys2Proof.Safety`.
-/

namespace Sys2Proof.Machine

/-- The status word of an entry into Machine, bit by bit (R320). -/
theorem statusEnterM_spec (m : Word) (priv : Priv) : MachineEntryStatus priv m (statusEnterM m priv) := by
  refine ⟨by rw [statusEnterM_getLsbD]; rfl, by rw [statusEnterM_getLsbD]; rfl,
    statusMpp_eq _ _ (by rw [statusEnterM_getLsbD]; rfl) (by rw [statusEnterM_getLsbD]; rfl), ?_⟩
  intro i hi
  simp only [List.mem_cons, List.not_mem_nil, or_false, not_or] at hi
  rw [statusEnterM_getLsbD]
  simp only [hi, if_false]

/-- The status word of an entry into Supervisor, bit by bit (R321). -/
theorem statusEnterS_spec (m : Word) (priv : Priv) : SupervisorEntryStatus priv m (statusEnterS m priv) := by
  refine ⟨by rw [statusEnterS_getLsbD]; rfl, by rw [statusEnterS_getLsbD]; rfl, by rw [statusEnterS_getLsbD]; rfl, ?_⟩
  intro i hi
  simp only [List.mem_cons, List.not_mem_nil, or_false, not_or] at hi
  rw [statusEnterS_getLsbD]
  simp only [hi, if_false]

/-- The status word of a return from a machine trap, bit by bit (R205). -/
theorem statusReturnM_spec (m : Word) (np : Priv) : MachineReturnStatus np m (statusReturnM m np) := by
  refine ⟨by rw [statusReturnM_getLsbD]; rfl, by rw [statusReturnM_getLsbD]; rfl,
    statusMpp_eq _ _ (by rw [statusReturnM_getLsbD]; rfl) (by rw [statusReturnM_getLsbD]; rfl),
    by rw [statusReturnM_getLsbD]; rfl, ?_⟩
  intro i hi
  simp only [List.mem_cons, List.not_mem_nil, or_false, not_or] at hi
  rw [statusReturnM_getLsbD]
  simp only [hi, if_false]

/-- The status word of a return from a supervisor trap, bit by bit (R209). -/
theorem statusReturnS_spec (m : Word) : SupervisorReturnStatus m (statusReturnS m) := by
  refine ⟨by rw [statusReturnS_getLsbD]; rfl, by rw [statusReturnS_getLsbD]; rfl, by rw [statusReturnS_getLsbD]; rfl,
    by rw [statusReturnS_getLsbD]; rfl, ?_⟩
  intro i hi
  simp only [List.mem_cons, List.not_mem_nil, or_false, not_or] at hi
  rw [statusReturnS_getLsbD]
  simp only [hi, if_false]

/-- What the commit of an entry into Machine leaves. -/
theorem commit_trapEnterM (p : Params) (b : Bank) (priv : Priv) (inp : TickInputs) (snap : Bank) (intr : Bool)
    (code : Code) (epc tval : Word) :
    EnteredMachine priv snap intr code epc tval
      (commit p b priv inp (trapEnterM priv snap intr code epc tval)).bank
      (commit p b priv inp (trapEnterM priv snap intr code epc tval)).priv
      (commit p b priv inp (trapEnterM priv snap intr code epc tval)).out.redirectTarget := by
  obtain ⟨h1, h2, h3, h4, h5, h6, h7⟩ := commitBank_direct p b inp
    { mstatus := statusEnterM snap.mstatus priv, mepc := epc, mcause := causeWord intr code, mtval := tval,
      sepc := snap.sepc, scause := snap.scause, stval := snap.stval }
  exact ⟨rfl, h2, h3, h4, h1 ▸ statusEnterM_spec _ _, h5, h6, h7, rfl⟩

/-- What the commit of an entry into Supervisor leaves. -/
theorem commit_trapEnterS (p : Params) (b : Bank) (priv : Priv) (inp : TickInputs) (snap : Bank) (intr : Bool)
    (code : Code) (epc tval : Word) :
    EnteredSupervisor priv snap intr code epc tval
      (commit p b priv inp (trapEnterS priv snap intr code epc tval)).bank
      (commit p b priv inp (trapEnterS priv snap intr code epc tval)).priv
      (commit p b priv inp (trapEnterS priv snap intr code epc tval)).out.redirectTarget := by
  obtain ⟨h1, h2, h3, h4, h5, h6, h7⟩ := commitBank_direct p b inp
    { mstatus := statusEnterS snap.mstatus priv, mepc := snap.mepc, mcause := snap.mcause, mtval := snap.mtval,
      sepc := epc, scause := causeWord intr code, stval := tval }
  exact ⟨rfl, h5, h6, h7, h1 ▸ statusEnterS_spec _ _, h2, h3, h4, rfl⟩

/-- What the direct write of a return leaves: the new `mstatus`, and the six other registers of the snapshot. -/
theorem commitBank_returnWrite (p : Params) (b : Bank) (inp : TickInputs) (snap : Bank) (ms : Word) :
    (commitBank p b inp (some (returnWrite snap ms))).mstatus = ms ∧
      TrapRegistersKept snap (commitBank p b inp (some (returnWrite snap ms))) := by
  obtain ⟨h1, h2, h3, h4, h5, h6, h7⟩ := commitBank_direct p b inp (returnWrite snap ms)
  exact ⟨h1, h2, h3, h4, h5, h6, h7⟩

/-- The registers outside the direct write, in a tick with a direct write (R166). -/
theorem commitBank_outside (p : Params) (b : Bank) (inp : TickInputs) (v : DirectWrite) :
    SameOutsideDirectSet (if p.ordinaryWriteOnTrapTick = .drop then b else snapshot p b inp)
      (commitBank p b inp (some v)) := by
  unfold commitBank
  cases p.ordinaryWriteOnTrapTick <;> exact ⟨rfl, rfl, rfl, rfl, rfl, rfl, rfl, rfl⟩

end Sys2Proof.Machine
end

