-- ==== Sys2Proof/Tests/Slice0.lean ====
section
/-!
SUPPORT. Tests whose expected results are the spec's own (`spec/95_test_vectors.md`, the examples in the rules), the
well-formedness and decoding smoke tests, and for every statement with hypotheses a witness that meets them.
-/

namespace Sys2Proof.Tests

open Sys2Proof Sys2Proof.Machine

/-! ### Well-formedness: the check refuses a register number above 31 (R110) -/

theorem test_wf_csrrw_rd : (Instr.csrrw 32 0x305 0).wf = false := by decide
theorem test_wf_csrrw_rs1 : (Instr.csrrw 0 0x305 32).wf = false := by decide
theorem test_wf_csrrs_rd : (Instr.csrrs 32 0x300 0).wf = false := by decide
theorem test_wf_csrrs_rs1 : (Instr.csrrs 0 0x300 32).wf = false := by decide
theorem test_wf_csrrc_rd : (Instr.csrrc 32 0x300 0).wf = false := by decide
theorem test_wf_csrrc_rs1 : (Instr.csrrc 0 0x300 32).wf = false := by decide
theorem test_wf_csrrwi_rd : (Instr.csrrwi 32 0x300 0).wf = false := by decide
theorem test_wf_csrrsi_rd : (Instr.csrrsi 32 0x300 0).wf = false := by decide
theorem test_wf_csrrci_rd : (Instr.csrrci 32 0x300 0).wf = false := by decide
theorem test_wf_accepts_31 : (Instr.csrrw 31 0xFFF 31).wf = true := by decide

/-! ### Decoding: the words of R112, field by field as `csr rs1 funct3 rd opcode` -/

theorem test_decode_ecall : decodeWord 0b000000000000_00000_000_00000_1110011 = .ok .ecall := by decide
theorem test_decode_ebreak : decodeWord 0b000000000001_00000_000_00000_1110011 = .ok .ebreak := by decide
theorem test_decode_sret : decodeWord 0b000100000010_00000_000_00000_1110011 = .ok .sret := by decide
theorem test_decode_mret : decodeWord 0b001100000010_00000_000_00000_1110011 = .ok .mret := by decide
/-- `csrrw x0, mtvec, x5` (R232). -/
theorem test_decode_csrrw : decodeWord 0b001100000101_00101_001_00000_1110011 = .ok (.csrrw 0 0x305 5) := by decide
/-- `csrrs x7, mstatus, x6` (R233). -/
theorem test_decode_csrrs : decodeWord 0b001100000000_00110_010_00111_1110011 = .ok (.csrrs 7 0x300 6) := by decide
/-- `csrrc x0, mstatus, x6` (R234). -/
theorem test_decode_csrrc : decodeWord 0b001100000000_00110_011_00000_1110011 = .ok (.csrrc 0 0x300 6) := by decide
/-- `csrrwi x0, mstatus, 8` (R235). -/
theorem test_decode_csrrwi : decodeWord 0b001100000000_01000_101_00000_1110011 = .ok (.csrrwi 0 0x300 8) := by decide
/-- `csrrsi x6, sie, 31` (L2.11h). -/
theorem test_decode_csrrsi : decodeWord 0b000100000100_11111_110_00110_1110011 = .ok (.csrrsi 6 0x104 31) := by decide
/-- `csrrci x0, mstatus, 8` (R237). -/
theorem test_decode_csrrci : decodeWord 0b001100000000_01000_111_00000_1110011 = .ok (.csrrci 0 0x300 8) := by decide
/-- ECALL with a set `rd` bit is outside the contract (R112, R113). -/
theorem test_decode_ecall_rd : decodeWord 0x000000F3#32 = .error .privilegedUnlisted := by decide
/-- The bytes of `mret`, lowest address first (R81). -/
theorem test_decode_bytes : decode [0x73, 0x00, 0x20, 0x30, 0xFF] = .ok (.mret, [0xFF]) := by rfl
theorem test_decode_truncated : decode [0x73, 0x00, 0x20] = .error .truncated := by rfl

/-! ### One step of each instruction -/

/-- A state at `pc` whose other fields are those of reset. -/
def at' (bank : Bank) (priv : Priv) (pc : Word) : State := { State.reset with bank := bank, priv := priv, pc := pc }

/-- The state with one register written. -/
def withX (s : State) (r : Nat) (v : Word) : State := xWrite s r v

/-- What a next state shows through `f`. -/
def after {α : Type} (f : State → α) : Host.Outcome State Fault Refusal → Option α
  | .next t => some (f t)
  | .fault _ => none
  | .refused _ => none

/-- L2.5a: ECALL from User, code 8. -/
theorem test_ecall_user :
    after (fun t => (t.bank.mepc, t.bank.mcause, t.priv, t.pc))
      (exec .ecall (at' { Bank.reset with mtvec := 0x100, stvec := 0x200 } .user 0x40)) =
      some (0x40, 8, .machine, 0x100) := by decide

/-- L1.9i's shape through the ECALL identity: delegated from User into Supervisor. -/
theorem test_ecall_delegated :
    after (fun t => (t.bank.mstatus, t.bank.sepc, t.bank.scause, t.priv, t.pc))
      (exec .ecall (at' { Bank.reset with mstatus := 0x2, medeleg := 0x100, stvec := 0x3000 } .user 0x2000)) =
      some (0x20, 0x2000, 8, .supervisor, 0x3000) := by decide

/-- L1.9f (R203). -/
theorem test_ebreak_machine :
    after (fun t => (t.bank.mstatus, t.bank.mepc, t.bank.mcause, t.pc))
      (exec .ebreak (at' { Bank.reset with mstatus := 0x8, mtvec := 0x101 } .machine 0x40)) =
      some (0x1880, 0x40, 3, 0x100) := by decide

/-- L1.1b (R205). -/
theorem test_mret_machine :
    after (fun t => (t.bank.mstatus, t.priv, t.pc, t.bank.cyc))
      (exec .mret (at' { Bank.reset with mstatus := 0x1880, mtvec := 0x1144, mepc := 0x1900, cyc := 1 } .machine
        0x1144)) =
      some (0x88, .machine, 0x1900, 2) := by decide

/-- R206: the reserved MPP stops the model. -/
theorem test_mret_reserved_mpp :
    after (fun t => t.pc) (exec .mret (at' { Bank.reset with mstatus := 0x1000 } .machine 0x40)) = none := by decide

/-- L2.8a (R209). -/
theorem test_sret_supervisor :
    after (fun t => (t.bank.mstatus, t.priv, t.pc))
      (exec .sret (at' { Bank.reset with mstatus := 0x20120, sepc := 0x2004 } .supervisor 0x200)) =
      some (0x22, .supervisor, 0x2004) := by decide

/-- L2.8c (R211): TSR at Supervisor under `NOOP`. -/
theorem test_sret_tsr_noop :
    after (fun t => (t.bank.mstatus, t.priv, t.pc))
      (exec .sret (at' { Bank.reset with mstatus := 0x400122, mtvec := 0x100, sepc := 0x3000 } .supervisor 0x200)) =
      some (0x400122, .supervisor, 0x204) := by decide

/-- L1.9k (R232). -/
theorem test_csrrw_mtvec :
    after (fun t => (t.bank.mtvec, t.pc, t.bank.cyc)) (exec (.csrrw 0 0x305 5) (withX State.reset 5 0x1144)) =
      some (0x1144, 4, 2) := by decide

/-- L2.11g: `rd = rs1`. -/
theorem test_csrrw_same_register :
    after (fun t => (t.bank.mscratch, xRead t 5))
      (exec (.csrrw 5 0x340 5) (withX (at' { Bank.reset with mscratch := 0x55 } .machine 0) 5 0x1234)) =
      some (0x1234, 0x55) := by decide

/-- L1.9l (R233). -/
theorem test_csrrs_mstatus :
    after (fun t => (t.bank.mstatus, xRead t 7))
      (exec (.csrrs 7 0x300 6) (withX (at' { Bank.reset with mstatus := 0x1880 } .machine 0) 6 8)) =
      some (0x1888, 0x1880) := by decide

/-- L2.11k: the write tick pulses `start_paging`. -/
theorem test_csrrs_satp :
    after (fun t => (t.bank.satp, xRead t 10, t.outs.map (·.startPaging)))
      (exec (.csrrs 10 0x180 6) (withX State.reset 6 0x80000000)) =
      some (0x80000000, 0, [false, true]) := by decide

/-- L1.9m (R234). -/
theorem test_csrrc_mstatus :
    after (fun t => (t.bank.mstatus, xRead t 6))
      (exec (.csrrc 0 0x300 6) (withX (at' { Bank.reset with mstatus := 0x1888 } .machine 0) 6 8)) =
      some (0x1880, 8) := by decide

/-- L2.11b: `rs1 = x0` writes nothing. -/
theorem test_csrrc_no_write :
    after (fun t => (t.bank.mstatus, xRead t 7))
      (exec (.csrrc 7 0x300 0) (at' { Bank.reset with mstatus := 0x1888 } .machine 0)) = some (0x1888, 0x1888) := by
  decide

/-- L1.9n (R235). -/
theorem test_csrrwi_mstatus :
    after (fun t => t.bank.mstatus) (exec (.csrrwi 0 0x300 8) (at' { Bank.reset with mstatus := 0x1888 } .machine 0)) =
      some 8 := by decide

/-- L1.9o (R236): through the `sstatus` view. -/
theorem test_csrrsi_sstatus : after (fun t => t.bank.mstatus) (exec (.csrrsi 0 0x100 2) State.reset) = some 2 := by
  decide

/-- L2.11h: `sie` exposes bits 1, 5 and 9 of `mie`. -/
theorem test_csrrsi_sie :
    after (fun t => (t.bank.mie, xRead t 6)) (exec (.csrrsi 6 0x104 31) (at' { Bank.reset with mie := 0x888 } .machine 0)) =
      some (0x88A, 0) := by decide

/-- L1.9p (R237). -/
theorem test_csrrci_mstatus :
    after (fun t => t.bank.mstatus) (exec (.csrrci 0 0x300 8) (at' { Bank.reset with mstatus := 0x1888 } .machine 0)) =
      some 0x1880 := by decide

/-- The step after `withFetchWord` runs the placed EBREAK, whose bytes wrap past the top of the address space. -/
theorem test_step_placed :
    after (fun t => (t.bank.mepc, t.pc)) (step ((at' { Bank.reset with mtvec := 0x100 } .machine 0xFFFFFFFE).withFetchWord
      32 0x00100073)) = some (0xFFFFFFFE, 0x100) := by decide

/-- From reset nothing is placed, and the first fetch stops (log entry 4). -/
theorem test_step_reset : step State.reset = .fault .fetchUnwritten := by rfl

/-! ### Witnesses: for each statement with hypotheses, a case that meets them all -/

/-- The bank of L1.1a: MIE set, a handler at `0x1144`. -/
def bankOn : Bank := { Bank.reset with mstatus := 0x1888, mtvec := 0x1144 }

/-- The inputs of L1.1a: the timer line, fetching at `0x1900`. -/
def timer : TickInputs := { TickInputs.idle with irq := 1, fetchPc := 0x1900 }

/-- A decode-stage exception, code 8. -/
def decodeExc : TickInputs := { TickInputs.idle with idExcValid := true, idExcCode := 8, idPc := 0x1900 }

/-- An ordinary write. -/
def writes (a : CsrAddr) (d : Word) : TickInputs := { TickInputs.idle with csrWEn := true, csrWAddr := a, csrWData := d }

/-- A tick that presents an identity. -/
def presents (k : InstrKind) : TickInputs := { TickInputs.idle with instrKind := kindBits k }

/-- The defaults with the other value of R19. -/
def keepParams : Params := { Config.defaults with ordinaryWriteOnTrapTick := .keepUntouched }

theorem witness_ResetLeavesTheSpecifiedValues : (0x300#12 : CsrAddr) ≠ 0x301 := by decide

theorem witness_FirstTickAfterReset :
    decodeExc.csrWEn = false ∧
      arbitrate Config.defaults .machine (State.resetWith Config.defaults).bank decodeExc = .excTrap 8 0x1900 0 := by decide

theorem witness_CsrReadFollowsTheMap :
    (0x7C0#12 : CsrAddr) ∉ wholeWordCsrs ∧ (0x7C0#12 : CsrAddr) ∉ readOnlyCsrs ∧ (0x7C0#12 : CsrAddr) ∉ viewCsrs ∧
      (0x000#12 : CsrAddr) ∉ wholeWordCsrs ∧ (0xFFF#12 : CsrAddr) ∉ wholeWordCsrs := by decide

theorem witness_OrdinaryWriteStoresTheWord :
    (0x105#12 : CsrAddr) ∈ wholeWordCsrs ∧ (0x343#12 : CsrAddr) ∈ wholeWordCsrs ∧
      (0x301#12 : CsrAddr) ∉ wholeWordCsrs ∧ (0x301#12 : CsrAddr) ∉ viewCsrs ∧
      (0xFFF#12 : CsrAddr) ∉ wholeWordCsrs ∧ (0xFFF#12 : CsrAddr) ∉ viewCsrs := by decide

theorem witness_ViewsMergeUnderTheirMasks : 0 < 32 ∧ 31 < 32 := by decide

theorem witness_OrdinaryWriteChangesOneRegister :
    shareStorage 0x300 0x304 = false ∧ shareStorage 0x100 0x104 = false ∧ shareStorage 0x000 0xFFF = false := by decide

theorem witness_ForwardedReadSeesTheWrite_stored : ∃ r,
    tick Config.defaults Bank.reset .machine { writes 0x340 9 with csrRAddr := 0x340 } = .ok r ∧
      (0x340#12 : CsrAddr) ∈ wholeWordCsrs ∧ r.out.redirectValid = false := ⟨_, rfl, by decide, by decide⟩

theorem witness_ForwardedReadSeesTheWrite_readOnly : ∃ r,
    tick Config.defaults Bank.reset .machine { writes 0xC80 9 with csrRAddr := 0xC80 } = .ok r ∧
      (0xC80#12 : CsrAddr) ∈ readOnlyCsrs := ⟨_, rfl, by decide⟩

theorem witness_ForwardedReadSeesTheWrite_other : ∃ r,
    tick Config.defaults Bank.reset .machine { writes 0x340 9 with csrRAddr := 0x140 } = .ok r ∧
      shareStorage 0x340 0x140 = false := ⟨_, rfl, by decide⟩

theorem witness_ForwardedReadSeesTheWrite_noWrite : ∃ r,
    tick Config.defaults bankOn .user { TickInputs.idle with csrRAddr := 0x300 } = .ok r ∧
      r.out.csrRData = 0x1888 ∧ r.out.redirectValid = false := ⟨_, rfl, by decide, by decide⟩

/-- R157 (a): a view is read back in the tick of a write to it. -/
theorem witness_ForwardedReadSeesTheWrite_view : ∃ r r₂,
    tick Config.defaults Bank.reset .machine { writes 0x100 0xFFFFFFFF with csrRAddr := 0x100 } = .ok r ∧
      r.out.csrRData = 0x122 ∧
      tick Config.defaults Bank.reset .machine { writes 0x104 0xFFFFFFFF with csrRAddr := 0x104 } = .ok r₂ ∧
      r₂.out.csrRData = 0x222 := ⟨_, _, rfl, by decide, rfl, by decide⟩

/-- R157 (a): the backing register is read in the tick of a write to its view. -/
theorem witness_ForwardedReadSeesTheWrite_backing : ∃ r r₂,
    tick Config.defaults bankOn .machine { writes 0x100 2 with csrRAddr := 0x300 } = .ok r ∧
      r.out.csrRData = 0x188A ∧
      tick Config.defaults { Bank.reset with mie := 0x888 } .machine { writes 0x104 2 with csrRAddr := 0x304 } = .ok r₂ ∧
      r₂.out.csrRData = 0x88A := ⟨_, _, rfl, by decide, rfl, by decide⟩

/-- A view is read in the tick of a write to its backing register. -/
theorem witness_ForwardedReadSeesTheWrite_throughView : ∃ r r₂,
    tick Config.defaults bankOn .machine { writes 0x300 0xFFFFFFFF with csrRAddr := 0x100 } = .ok r ∧
      r.out.csrRData = 0x122 ∧
      tick Config.defaults bankOn .machine { writes 0x304 0xFFFFFFFF with csrRAddr := 0x104 } = .ok r₂ ∧
      r₂.out.csrRData = 0x222 := ⟨_, _, rfl, by decide, rfl, by decide⟩

/-- R157 (c): an unmapped address, the last of all. -/
theorem witness_ForwardedReadSeesTheWrite_unmapped : ∃ r,
    tick Config.defaults bankOn .machine { writes 0xFFF 9 with csrRAddr := 0xFFF } = .ok r ∧ r.out.csrRData = 0 ∧
      (0xFFF#12 : CsrAddr) ∉ wholeWordCsrs ∧ (0xFFF#12 : CsrAddr) ∉ readOnlyCsrs ∧
      (0xFFF#12 : CsrAddr) ∉ viewCsrs := ⟨_, rfl, by decide, by decide, by decide, by decide⟩

theorem witness_CounterAdvancesEveryTick : ∃ r,
    tick Config.defaults { Bank.reset with cyc := 0xFFFFFFFFFFFFFFFF } .user TickInputs.idle = .ok r := ⟨_, rfl⟩

theorem witness_StartPagingMarksEnabling : ∃ r,
    tick Config.defaults Bank.reset .machine (writes 0x180 0x80000000) = .ok r ∧ r.out.startPaging = true ∧
      ∃ r₂, tick Config.defaults r.bank r.priv (writes 0x180 0x80000000) = .ok r₂ :=
  ⟨_, rfl, by decide, _, rfl⟩

theorem witness_TranslationEnableSeenNextTick : ∃ r r₂,
    tick Config.defaults Bank.reset .machine (writes 0x180 0x80000000) = .ok r ∧
      tick Config.defaults r.bank r.priv TickInputs.idle = .ok r₂ ∧ r.out.redirectValid = false :=
  ⟨_, _, rfl, rfl, by decide⟩

theorem witness_TickFaultsOnlyOnReservedMpp :
    tick Config.defaults { Bank.reset with mstatus := 0x1000 } .user (presents .mret) = .error .reservedMPP := rfl

theorem witness_NoTrapTickCommitsTheWrite :
    arbitrate Config.defaults .machine (snapshot Config.defaults bankOn (writes 0x300 8)) (writes 0x300 8) = .noTrap ∧
      arbitrate Config.defaults .user (snapshot Config.defaults bankOn TickInputs.idle) TickInputs.idle = .noTrap := by
  decide

theorem witness_NoTrapTickCommitsTheWrite_noCondition :
    noFlag (writes 0x300 8) = true ∧ noEnvKind Config.defaults (writes 0x300 8) = true ∧
      noInterrupt Config.defaults .machine (snapshot Config.defaults bankOn (writes 0x300 8)) (writes 0x300 8) = true ∧
      kindOfBits (writes 0x300 8).instrKind ≠ .mret ∧ kindOfBits (writes 0x300 8).instrKind ≠ .sret := by decide

theorem witness_NoTrapTickCommitsTheWrite_tsr :
    noFlag (presents .sret) = true ∧
      noInterrupt Config.defaults .supervisor
        (snapshot Config.defaults { Bank.reset with mstatus := 0x400000 } (presents .sret)) (presents .sret) = true ∧
      kindOfBits (presents .sret).instrKind = .sret ∧
      statusTsr (snapshot Config.defaults { Bank.reset with mstatus := 0x400000 } (presents .sret)).mstatus = true ∧
      Config.defaults.tsrSretMode = .noop := by decide

theorem witness_ExceptionConditionsInOrder_decode : decodeExc.idExcValid = true := by decide

theorem witness_ExceptionConditionsInOrder_identities :
    (presents .ecall).idExcValid = false ∧ Config.defaults.envFromIdentity = true ∧
      kindOfBits (presents .ecall).instrKind = .ecall ∧ (presents .ebreak).idExcValid = false ∧
      kindOfBits (presents .ebreak).instrKind = .ebreak := by decide

theorem witness_ExceptionConditionsInOrder_memory :
    noEnvKind Config.defaults { presents .mret with memExcValid := true } = true := by decide

theorem witness_ExceptionConditionsInOrder_translation :
    noEnvKind Config.defaults { presents .mret with mmuExcValid := true } = true ∧
      arbitrate Config.defaults .user Bank.reset { TickInputs.idle with mmuExcValid := true, mmuTval := 5 } =
        .excTrap 0 0 5 := by decide

theorem witness_LowerPrioritySignalsIgnored_decode : decodeExc.idExcValid = true := by decide

theorem witness_LowerPrioritySignalsIgnored_identity :
    (presents .ebreak).idExcValid = false ∧ Config.defaults.envFromIdentity = true ∧
      kindOfBits (presents .ebreak).instrKind = .ebreak := by decide

theorem witness_LowerPrioritySignalsIgnored_memory :
    noEnvKind Config.defaults { timer with memExcValid := true } = true ∧
      noEnvKind Config.defaults (presents .mret) = true := by decide

theorem witness_LowerPrioritySignalsIgnored_translation :
    noEnvKind Config.defaults { timer with mmuExcValid := true } = true ∧
      noEnvKind Config.defaults (presents .sret) = true ∧ ({ timer with mmuExcValid := true }).memExcValid = false := by
  decide

theorem witness_LowerPrioritySignalsIgnored_interrupt :
    noFlag timer = true ∧ noEnvKind Config.defaults timer = true ∧ noEnvKind Config.defaults (presents .mret) = true ∧
      noInterrupt Config.defaults .machine (snapshot Config.defaults bankOn timer) timer = false := by decide

theorem witness_InterruptGateByMode :
    noFlag timer = true ∧ noEnvKind Config.defaults timer = true ∧
      arbitrate Config.defaults .machine bankOn timer = .intTrap 7 0x1900 ∧
      arbitrate Config.defaults .supervisor { Bank.reset with mstatus := 2 } timer = .intTrap 7 0x1900 ∧
      arbitrate Config.defaults .user Bank.reset timer = .intTrap 7 0x1900 := by decide

theorem witness_GlobalDisableAtMachine :
    timer.csrWEn = false ∧ noFlag timer = true ∧ kindOfBits timer.instrKind = .none ∧
      Bank.reset.mstatus.getLsbD 3 = false := by decide

theorem witness_UninterpretedRegistersDoNotInfluence :
    tick Config.defaults { Bank.reset with mstatus := 0x1000 } .user (presents .mret) = .error .reservedMPP ∧
      ∃ r, tick Config.defaults bankOn .machine timer = .ok r := ⟨rfl, _, rfl⟩

theorem witness_TrapIntoMachine :
    arbitrate Config.defaults .user (snapshot Config.defaults bankOn decodeExc) decodeExc = .excTrap 8 0x1900 0 ∧
      excTarget .user (snapshot Config.defaults bankOn decodeExc) 8 = .machine ∧
      arbitrate Config.defaults .machine (snapshot Config.defaults bankOn timer) timer = .intTrap 7 0x1900 ∧
      intTarget .machine (snapshot Config.defaults bankOn timer) 7 = .machine := by decide

/-- Every code and every line delegated. -/
def bankDelegates : Bank := { Bank.reset with medeleg := 0xFFFFFFFF, mideleg := 0xFFFFFFFF, mstatus := 2 }

theorem witness_TrapIntoSupervisor :
    arbitrate Config.defaults .user (snapshot Config.defaults bankDelegates decodeExc) decodeExc =
        .excTrap 8 0x1900 0 ∧
      excTarget .user (snapshot Config.defaults bankDelegates decodeExc) 8 = .supervisor ∧
      arbitrate Config.defaults .supervisor (snapshot Config.defaults bankDelegates timer) timer =
        .intTrap 7 0x1900 ∧
      intTarget .supervisor (snapshot Config.defaults bankDelegates timer) 7 = .supervisor := by decide

theorem witness_TrapTargetMode_lastDelegatedCode : ∃ r,
    tick Config.defaults bankDelegates .user { decodeExc with idExcCode := 31 } = .ok r ∧ r.priv = .supervisor :=
  ⟨_, rfl, by decide⟩

theorem witness_TrapTargetMode_firstUndelegatedCode : ∃ r,
    tick Config.defaults bankDelegates .user { decodeExc with idExcCode := 32 } = .ok r ∧ r.priv = .machine :=
  ⟨_, rfl, by decide⟩

theorem witness_TrapTargetMode_interrupt : ∃ r,
    tick Config.defaults bankDelegates .user timer = .ok r ∧
      arbitrate Config.defaults .user (snapshot Config.defaults bankDelegates timer) timer = .intTrap 7 0x1900 :=
  ⟨_, rfl, by decide⟩

theorem witness_HandlerAddressByModeAndCause :
    (0x1145#32).toNat % 4 = 1 ∧ (0xFFFFFFFD#32).toNat % 4 = 1 ∧ (0x1146#32).toNat % 4 ≠ 1 ∧
      (0x1144#32).toNat % 4 ≠ 1 := by decide

theorem witness_MachineReturn :
    arbitrate Config.defaults .machine (snapshot Config.defaults bankOn (presents .mret)) (presents .mret) = .mret ∧
      privBits .machine = statusMpp (snapshot Config.defaults bankOn (presents .mret)).mstatus := by decide

theorem witness_MachineReturn_reserved :
    arbitrate Config.defaults .machine
        (snapshot Config.defaults { Bank.reset with mstatus := 0x1000 } (presents .mret)) (presents .mret) = .mret ∧
      statusMpp (snapshot Config.defaults { Bank.reset with mstatus := 0x1000 } (presents .mret)).mstatus = 0b10#2 := by
  decide

theorem witness_SupervisorReturn :
    arbitrate Config.defaults .user (snapshot Config.defaults bankOn (presents .sret)) (presents .sret) = .sret := by
  decide

theorem witness_RedirectExactlyOnTrapOrReturn_exception : ∃ r,
    tick Config.defaults bankDelegates .user decodeExc = .ok r ∧
      arbitrate Config.defaults .user (snapshot Config.defaults bankDelegates decodeExc) decodeExc =
        .excTrap 8 0x1900 0 := ⟨_, rfl, by decide⟩

theorem witness_RedirectExactlyOnTrapOrReturn_interrupt : ∃ r,
    tick Config.defaults bankOn .machine timer = .ok r ∧
      arbitrate Config.defaults .machine (snapshot Config.defaults bankOn timer) timer = .intTrap 7 0x1900 :=
  ⟨_, rfl, by decide⟩

theorem witness_RedirectExactlyOnTrapOrReturn_mret : ∃ r,
    tick Config.defaults bankOn .machine (presents .mret) = .ok r ∧
      arbitrate Config.defaults .machine (snapshot Config.defaults bankOn (presents .mret)) (presents .mret) = .mret :=
  ⟨_, rfl, by decide⟩

theorem witness_RedirectExactlyOnTrapOrReturn_sret : ∃ r,
    tick Config.defaults bankOn .machine (presents .sret) = .ok r ∧
      arbitrate Config.defaults .machine (snapshot Config.defaults bankOn (presents .sret)) (presents .sret) = .sret :=
  ⟨_, rfl, by decide⟩

theorem witness_PrivilegeLatchCommit : ∃ r, tick Config.defaults bankOn .machine (presents .mret) = .ok r := ⟨_, rfl⟩

theorem witness_OrdinaryWriteInTrapTick_drop : ∃ r,
    tick Config.defaults bankOn .machine { decodeExc with csrWEn := true, csrWAddr := 0x340, csrWData := 9 } = .ok r ∧
      r.out.redirectValid = true ∧ Config.defaults.ordinaryWriteOnTrapTick = .drop := ⟨_, rfl, by decide, by decide⟩

theorem witness_OrdinaryWriteInTrapTick_keepUntouched : ∃ r,
    tick keepParams bankOn .machine { decodeExc with csrWEn := true, csrWAddr := 0x340, csrWData := 9 } = .ok r ∧
      r.out.redirectValid = true ∧ keepParams.ordinaryWriteOnTrapTick = .keepUntouched :=
  ⟨_, rfl, by decide, by decide⟩

theorem witness_TrapLogicWritesOnlyItsFields : ∃ r,
    tick Config.defaults bankOn .machine timer = .ok r ∧ timer.csrWEn = false := ⟨_, rfl, by decide⟩

/-- A tick that sets MIE beside an asserted timer line. -/
def enabling : TickInputs := { writes 0x300 8 with irq := 1, fetchPc := 0x1900 }

theorem witness_SameTickEnableTakesInterrupt :
    noFlag enabling = true ∧ noEnvKind Config.defaults enabling = true ∧ enabling.irq ≠ 0 ∧ enabling.csrWEn = true ∧
      enabling.csrWAddr = 0x300 ∧ enabling.csrWData.getLsbD 3 = true ∧
      Bank.reset.mideleg.getLsbD (intCode enabling.irq).toNat = false := by decide

/-- An MRET beside the timer line. -/
def mretTimer : TickInputs := { presents .mret with irq := 1 }

theorem witness_DelegatedInterruptWaitsForReturn :
    noFlag mretTimer = true ∧ kindOfBits mretTimer.instrKind = .mret ∧ mretTimer.csrWEn = false ∧
      statusMpp bankDelegates.mstatus = 0b00#2 ∧
      bankDelegates.mideleg.getLsbD (intCode mretTimer.irq).toNat = true ∧
      noFlag timer = true ∧ noEnvKind Config.defaults timer = true ∧ timer.csrWEn = false ∧
      timer.irq = mretTimer.irq ∧ mretTimer.irq ≠ 0 := by decide

theorem witness_LegalMppIsKept : LegalMpp (snapshot Config.defaults bankOn timer) := by
  unfold LegalMpp; decide

/-- A handler tick that writes `mscratch` under the timer line. -/
def handler : TickInputs := { writes 0x340 9 with irq := 1 }

theorem witness_MachineTrapRoundTrip : ∃ r,
    tick Config.defaults bankOn .machine timer = .ok r ∧ r.priv = .machine ∧
      arbitrate Config.defaults .machine (snapshot Config.defaults bankOn timer) timer = .intTrap 7 0x1900 ∧
      (∀ h, h ∈ [mretTimer, handler] →
        noFlag h = true ∧ (h.csrWEn = true → h.csrWAddr ∉ [0x300#12, 0x100#12, 0x341#12])) ∧
      (∀ h, h ∈ [handler] → kindOfBits h.instrKind = .none) ∧ kindOfBits mretTimer.instrKind = .mret :=
  ⟨_, rfl, by decide, by decide, by decide, by decide, by decide⟩

theorem witness_SupervisorTrapRoundTrip : ∃ r,
    tick Config.defaults bankDelegates .user decodeExc = .ok r ∧ r.priv = .supervisor ∧
      arbitrate Config.defaults .user (snapshot Config.defaults bankDelegates decodeExc) decodeExc =
        .excTrap 8 0x1900 0 ∧
      (snapshot Config.defaults bankDelegates decodeExc).mstatus.getLsbD 22 = false ∧
      (∀ h, h ∈ [{ presents .sret with irq := 1 }, handler] → noFlag h = true ∧
        (Config.defaults.intGateBelowM = .currentEnable ∨ h.irq = 0) ∧
        (h.csrWEn = true → h.csrWAddr ∉ [0x300#12, 0x100#12, 0x141#12])) ∧
      (∀ h, h ∈ [handler] → kindOfBits h.instrKind = .none) ∧
      kindOfBits ({ presents .sret with irq := 1 } : TickInputs).instrKind = .sret :=
  ⟨_, rfl, by decide, by decide, by decide, by decide, by decide, by decide⟩

/-- A state at User whose environment presents `inp` beside the next instruction. -/
def beside (bank : Bank) (priv : Priv) (inp : TickInputs) : State := { at' bank priv 0x40 with env := [.beside inp] }

theorem witness_EcallTakesEnvironmentCall :
    (at' bankOn .user 0x40).params.envFromIdentity = true ∧
      (envInputs (at' bankOn .user 0x40).env).csrWEn = false := by decide

theorem witness_EbreakTakesBreakpoint :
    (at' bankOn .user 0x40).params.envFromIdentity = true ∧
      (envInputs (at' bankOn .user 0x40).env).csrWEn = false := by decide

/-- A state whose parameters ignore the ECALL and EBREAK identities. -/
def ignoring : State := { at' bankOn .user 0x40 with params := { Config.defaults with envFromIdentity := false } }

theorem witness_IdentityIgnoredWithoutParameter :
    ignoring.params.envFromIdentity = false ∧ quiet (envInputs ignoring.env) = true ∧
      (envInputs ignoring.env).csrWEn = false := by decide

theorem witness_MretReturnsFromMachineTrap :
    noFlag (envInputs (at' bankOn .machine 0x40).env) = true ∧
      noInterrupt Config.defaults .machine
        (snapshot Config.defaults bankOn (controlInputs .mret (at' bankOn .machine 0x40)))
        (controlInputs .mret (at' bankOn .machine 0x40)) = true ∧
      LegalMpp (snapshot Config.defaults bankOn (controlInputs .mret (at' bankOn .machine 0x40))) := by
  unfold LegalMpp; decide

/-- A bank whose MPP is the reserved value. -/
def bankReserved : Bank := { Bank.reset with mstatus := 0x1000 }

theorem witness_MretWithReservedMppFaults :
    noFlag (envInputs (at' bankReserved .user 0x40).env) = true ∧
      noInterrupt Config.defaults .user
        (snapshot Config.defaults bankReserved (controlInputs .mret (at' bankReserved .user 0x40)))
        (controlInputs .mret (at' bankReserved .user 0x40)) = true ∧
      ¬ LegalMpp (snapshot Config.defaults bankReserved (controlInputs .mret (at' bankReserved .user 0x40))) := by
  unfold LegalMpp; decide

theorem witness_SretReturnsFromSupervisorTrap :
    noFlag (envInputs (at' bankOn .supervisor 0x40).env) = true ∧
      noInterrupt Config.defaults .supervisor
        (snapshot Config.defaults bankOn (controlInputs .sret (at' bankOn .supervisor 0x40)))
        (controlInputs .sret (at' bankOn .supervisor 0x40)) = true ∧
      (snapshot Config.defaults bankOn (controlInputs .sret (at' bankOn .supervisor 0x40))).mstatus.getLsbD 22 =
        false := by decide

/-- TSR at Supervisor, under a given value of R16. -/
def blocked (m : TsrSretMode) : State :=
  { at' { Bank.reset with mstatus := 0x400122 } .supervisor 0x200 with
    params := { Config.defaults with tsrSretMode := m } }

theorem witness_SretUnderTsrAtSupervisor (m : TsrSretMode) :
    noFlag (envInputs (blocked m).env) = true ∧ (blocked m).priv = .supervisor ∧
      noInterrupt (blocked m).params (blocked m).priv
        (snapshot (blocked m).params (blocked m).bank (controlInputs .sret (blocked m)))
        (controlInputs .sret (blocked m)) = true ∧
      (snapshot (blocked m).params (blocked m).bank (controlInputs .sret (blocked m))).mstatus.getLsbD 22 = true ∧
      (blocked m).params.tsrSretMode = m := by cases m <;> decide

theorem witness_ReturnOvertakenByInterrupt :
    controlKind .mret = some .mret ∧ controlKind .sret = some .sret ∧
      noFlag (envInputs (beside bankOn .machine timer).env) = true ∧
      noInterrupt Config.defaults .machine
        (snapshot Config.defaults bankOn (controlInputs .mret (beside bankOn .machine timer)))
        (controlInputs .mret (beside bankOn .machine timer)) = false ∧
      noInterrupt Config.defaults .machine
        (snapshot Config.defaults bankOn (controlInputs .sret (beside bankOn .machine timer)))
        (controlInputs .sret (beside bankOn .machine timer)) = false := by decide

/-- The Supervisor branch: the line's code is delegated, and the trap is taken from below Machine. -/
theorem witness_ReturnOvertakenByInterrupt_supervisor :
    noFlag (envInputs (beside bankDelegates .supervisor timer).env) = true ∧
      bankDelegates.mideleg.getLsbD (intCode timer.irq).toNat = true ∧
      noInterrupt Config.defaults .supervisor
        (snapshot Config.defaults bankDelegates (controlInputs .sret (beside bankDelegates .supervisor timer)))
        (controlInputs .sret (beside bankDelegates .supervisor timer)) = false ∧
      after (fun t => (t.bank.sepc, t.bank.scause, t.priv))
        (exec .sret (beside bankDelegates .supervisor timer)) = some (0x44, 0x80000007, .supervisor) := by decide

theorem witness_ControlInstructionFrame : ∃ t,
    controlKind .ebreak = some .ebreak ∧ exec .ebreak (at' bankOn .machine 0x40) = .next t ∧
      (envInputs (at' bankOn .machine 0x40).env).csrWEn = false := ⟨_, rfl, rfl, by decide⟩

theorem witness_CsrrwReadsThenWrites : quietCsr (at' bankOn .machine 0x40) = true := by decide
theorem witness_CsrrsReadsThenSets : quietCsr (at' bankOn .supervisor 0x40) = true := by decide
theorem witness_CsrrcReadsThenClears : quietCsr (at' bankOn .user 0x40) = true := by decide
theorem witness_CsrrwiReadsThenWrites : quietCsr (at' bankOn .machine 0x44) = true := by decide
theorem witness_CsrrsiReadsThenSets : quietCsr (beside bankOn .machine TickInputs.idle) = true := by decide
theorem witness_CsrrciReadsThenClears : quietCsr (beside bankOn .user (writes 0x300 8)) = true := by decide

theorem witness_CsrInstructionFrame :
    csrOperands (.csrrci 31 0xFFF 31) = some (31, 0xFFF) ∧ (0x104#12 : CsrAddr) ∈ untrappedCsrs ∧
      (0x340#12 : CsrAddr) ∈ untrappedCsrs ∧ shareStorage 0xFFF 0x104 = false ∧ shareStorage 0xFFF 0x340 = false := by
  decide

/-- The timer line is up in the read tick: the interrupt is taken, `x[rd]` is written and the write tick runs (R231). -/
theorem test_csrrwi_read_tick_trap :
    after (fun t => (t.bank.mepc, t.bank.mscratch, xRead t 7, t.pc, t.bank.cyc))
      (exec (.csrrwi 7 0x340 9) (beside { bankOn with mscratch := 5 } .machine timer)) =
      some (0x44, 9, 5, 0x1144, 2) := by decide

/-- The timer line is up in the write tick of a CSR instruction, its read tick being idle. -/
def lateTimer : State := { at' bankOn .machine 0x40 with env := [.beside TickInputs.idle, .beside timer] }

theorem witness_CsrWriteTickTrapDropsTheWrite : ∃ t,
    csrOperands (.csrrw 1 0x340 0) = some (1, 0x340) ∧ lateTimer.params.ordinaryWriteOnTrapTick = .drop ∧
      quiet (envInputs lateTimer.env) = true ∧ exec (.csrrw 1 0x340 0) lateTimer = .next t ∧
      ∃ o, t.outs.getLast? = some o ∧ o.redirectValid = true :=
  ⟨_, rfl, by decide, by decide, rfl, _, rfl, rfl⟩

/-- R421 (a): a write to `sepc` survives a trap into Machine in its write tick. -/
theorem witness_CsrWriteTickTrapDropsTheWrite_machine : ∃ t o,
    exec (.csrrwi 1 0x141 9) lateTimer = .next t ∧ t.outs.getLast? = some o ∧ o.redirectValid = true ∧
      t.priv = .machine ∧ t.bank.sepc = 9 :=
  ⟨_, _, rfl, rfl, by decide, by decide, by decide⟩

/-- L2.10f in a write tick: SIE and TSR of an `mstatus` write survive, MIE, MPIE and MPP are the trap's. -/
theorem witness_CsrWriteTickTrapDropsTheWrite_mstatus : ∃ t o,
    exec (.csrrw 0 0x300 5) (withX { lateTimer with env := [.beside TickInputs.idle, .beside decodeExc] } 5 0x400002) =
        .next t ∧
      t.outs.getLast? = some o ∧ o.redirectValid = true ∧ t.bank.mstatus = 0x401802 :=
  ⟨_, _, rfl, rfl, by decide, by decide⟩

/-- The same for `mepc` and a trap into Supervisor. -/
theorem witness_CsrWriteTickTrapDropsTheWrite_supervisor : ∃ t o,
    exec (.csrrwi 1 0x341 9) { lateTimer with bank := bankDelegates, priv := .user } = .next t ∧
      t.outs.getLast? = some o ∧ o.redirectValid = true ∧ t.priv = .supervisor ∧ t.bank.mepc = 9 :=
  ⟨_, _, rfl, rfl, by decide, by decide, by decide⟩

/-- ECALL placed at the top of the address space. -/
def placed : State := (at' bankOn .user 0xFFFFFFFE).withFetchWord 32 0x00000073

theorem witness_StepRunsDecodedInstruction :
    placed.env = [] ∧ fetch placed = .ok [0x73, 0x00, 0x00, 0x00] ∧
      decode [0x73, 0x00, 0x00, 0x00] = .ok (.ecall, []) := ⟨rfl, rfl, rfl⟩

theorem witness_StepWithoutInstruction_idle : ∃ r,
    tick Config.defaults bankOn .machine { timer with instrKind := 0, fetchPc := 0x40 } = .ok r ∧
      ({ at' bankOn .machine 0x40 with env := [.noInstruction timer] } : State).env = [.noInstruction timer] :=
  ⟨_, rfl, rfl⟩

/-- R104: a tick with no instruction presents `NONE`, whatever identity the environment's record holds. -/
theorem test_idle_presents_none :
    after (fun t => (t.priv, t.pc, t.bank.mstatus))
      (step { at' bankOn .machine 0x40 with env := [.noInstruction (presents .mret)] }) =
      some (.machine, 0x40, 0x1888) := by decide

theorem witness_StepWithoutInstruction_refused :
    fetch ((at' bankOn .user 0).withFetchWord 32 0x00000013) = .ok [0x13, 0x00, 0x00, 0x00] ∧
      decode [0x13, 0x00, 0x00, 0x00] = .error .notSystem := ⟨rfl, rfl⟩

theorem witness_StepWithoutInstruction_fault :
    step State.reset = .fault .fetchUnwritten ∧
      step ((at' bankReserved .user 0).withFetchWord 32 0x30200073) = .fault .reservedMPP := ⟨rfl, rfl⟩

theorem witness_StepKeepsTheInvariant : ∃ t, StepInv placed ∧ step placed = .next t :=
  ⟨_, ⟨by decide, by decide, by intro o ho; cases ho⟩, rfl⟩

theorem witness_StepChangesModeOnlyByRedirect : ∃ t, step placed = .next t ∧ t.priv ≠ placed.priv :=
  ⟨_, rfl, by decide⟩

theorem witness_StepCountsItsTicks : ∃ t, step placed = .next t := ⟨_, rfl⟩

theorem witness_DecodeInvertsEncode : (Instr.csrrw 31 0xFFF 31).wf = true ∧ Instr.mret.wf = true := by decide

theorem witness_EncodeInvertsDecode : decodeWord 0xFFFFFFF3#32 = .ok (.csrrci 31 0xFFF 31) := by decide

theorem witness_PlacedInstructionRuns : (Instr.csrrsi 31 0x104 31).wf = true := by decide

end Sys2Proof.Tests
end

section
/-!
PROOF. A step that runs no instruction (O52): what an idle tick does, how a step without one depends on fetch and decode,
and what each of fetch, the control instructions and the CSR instructions can fault with.
-/

namespace Sys2Proof.Machine

/-! ### A step, by what the environment has next -/

/-- Where the environment's next tick is one without an instruction, the step is that tick. -/
theorem step_of_noInstruction (s : State) (inp : TickInputs) (rest : List EnvTick)
    (h : s.env = .noInstruction inp :: rest) : step s = idleTick inp rest s := by
  simp [step, h]

/-- Where it is not, the step runs what stands at `pc`. -/
theorem step_of_not_noInstruction (s : State) (h : ∀ inp rest, s.env ≠ .noInstruction inp :: rest) :
    step s = runNext s := by
  rcases step_cases s with ⟨inp, rest, he, -⟩ | ⟨-, hs⟩
  · exact absurd he (h inp rest)
  · exact hs

/-- A word outside the contract is refused by name (R113). -/
theorem runNext_of_decode_error (s : State) (bytes : List Byte) (d : DecodeRefusal) (hf : fetch s = .ok bytes)
    (hd : decode bytes = .error d) : runNext s = .refused (.outsideContract d) := by
  simp [runNext, hf, hd]

/-- Where the bytes at `pc` decode, what runs is the instruction they decode to. -/
theorem runNext_of_decode_ok (s : State) (bytes rest : List Byte) (i : Instr) (hf : fetch s = .ok bytes)
    (hd : decode bytes = .ok (i, rest)) : runNext s = exec i s := by
  simp [runNext, hf, hd]

/-! ### Ticks without an instruction -/

/-- One tick changes nothing that the driver holds but its `pc`. -/
theorem driverKept_afterTick (s : State) (env : List EnvTick) (fallthrough : Word) (earlier : List TickOutputs)
    (inp : TickInputs) (r : TickResult) : DriverKept s (s.afterTick env fallthrough earlier inp r) :=
  ⟨xRead_congr _ _ (State.afterTick_x ..), State.afterTick_params .., fun a => by rw [State.afterTick_mem]⟩

/-- A tick without an instruction never faults: its identity is `NONE` (R104). -/
theorem idleTick_ne_fault (inp : TickInputs) (rest : List EnvTick) (s : State) (f : Fault) :
    idleTick inp rest s ≠ .fault f := by
  obtain ⟨r, -, hn⟩ := idleTick_answers inp rest s
  simp [hn]

/-! ### What a fetch and an instruction can fault with -/

/-- The only fault of a fetch is that of bytes never placed (log entry 4). -/
theorem fetch_error (s : State) (f : Fault) (h : fetch s = .error f) : f = .fetchUnwritten := by
  unfold fetch at h
  split at h
  · cases h
  · cases h; rfl

/-- A CSR instruction never faults: neither of its two ticks presents the MRET identity (R231). -/
theorem execCsr_ne_fault (rd : Nat) (csr : CsrAddr) (we : Bool) (new : Word → Word) (s : State) (f : Fault) :
    execCsr rd csr we new s ≠ .fault f := by
  obtain ⟨r, r₂, -, -, -, hn⟩ := execCsr_next rd csr we new s
  simp [hn]

/-- A control instruction that faults is the one of the MRET identity, stopped at the reserved MPP (R206). -/
theorem execControl_fault (k : InstrKind) (s : State) (f : Fault) (h : execControl k s = .fault f) :
    k = .mret ∧ f = .reservedMPP := by
  unfold execControl at h
  split at h
  · rename_i f' ht
    cases h
    obtain ⟨hdec, -, hf⟩ := tick_error _ _ _ _ _ ht
    have hk : kindOfBits (kindBits k) = .mret := arbitrate_mret _ _ _ _ hdec
    exact ⟨(kindOfBits_kindBits k).symm.trans hk, hf⟩
  · cases h

/-- Each of the ten instructions is a control instruction or a CSR instruction (R112). -/
theorem controlKind_or_csrOperands (i : Instr) :
    (∃ k, controlKind i = some k) ∨ ∃ rd csr, csrOperands i = some (rd, csr) := by
  cases i with
  | ecall | ebreak | sret | mret => exact .inl ⟨_, rfl⟩
  | csrrw | csrrs | csrrc | csrrwi | csrrsi | csrrci => exact .inr ⟨_, _, rfl⟩

/-- MRET alone presents its identity (R104). -/
theorem eq_mret_of_controlKind (i : Instr) (h : controlKind i = some .mret) : i = .mret := by
  cases i <;> cases h
  rfl

/-- The only instruction that can fault is MRET, with the reserved MPP (R206). -/
theorem exec_fault (i : Instr) (s : State) (f : Fault) (h : exec i s = .fault f) :
    i = .mret ∧ f = .reservedMPP := by
  rcases controlKind_or_csrOperands i with ⟨k, hk⟩ | ⟨rd, csr, hc⟩
  · rw [exec_of_controlKind i k hk s] at h
    obtain ⟨rfl, hf⟩ := execControl_fault k s f h
    exact ⟨eq_mret_of_controlKind i hk, hf⟩
  · obtain ⟨we, new, he⟩ := exec_of_csrOperands i rd csr hc s
    exact absurd (he ▸ h) (execCsr_ne_fault rd csr we new s f)

/-- Running what stands at `pc` faults only at an MRET with the reserved MPP or at bytes never placed. -/
theorem runNext_fault (s : State) (f : Fault) (h : runNext s = .fault f) :
    (f = .reservedMPP ∧ ∃ bytes rest, fetch s = .ok bytes ∧ decode bytes = .ok (.mret, rest)) ∨
      (f = .fetchUnwritten ∧ fetch s = .error .fetchUnwritten) := by
  cases hf : fetch s with
  | error f' =>
    obtain rfl := fetch_error s f' hf
    simp only [runNext, hf] at h
    cases h
    exact .inr ⟨rfl, rfl⟩
  | ok bytes =>
    cases hd : decode bytes with
    | error d => rw [runNext_of_decode_error s bytes d hf hd] at h; cases h
    | ok ir =>
      obtain ⟨i, rest⟩ := ir
      rw [runNext_of_decode_ok s bytes rest i hf hd] at h
      obtain ⟨rfl, rfl⟩ := exec_fault i s f h
      exact .inl ⟨rfl, bytes, rest, rfl, hd⟩

/-- Settles O52, clause by clause: the idle tick answers and is one `State.afterTick`; a refused word is what `runNext`
refuses; a fault is one of `runNext`, as an idle tick has none. -/
theorem stepWithoutInstruction : Obligations.StepWithoutInstruction := by
  intro s
  refine ⟨fun inp env he => ?_, fun bytes d hne hf hd => ?_, fun f h => ?_⟩
  · obtain ⟨r, hr, hn⟩ := idleTick_answers inp env s
    exact ⟨r, _, hr, (step_of_noInstruction s inp env he).trans hn, rfl, rfl, rfl, rfl,
      driverKept_afterTick .., rfl⟩
  · rw [step_of_not_noInstruction s hne]
    exact runNext_of_decode_error s bytes d hf hd
  · rcases step_cases s with ⟨inp, rest, -, hs⟩ | ⟨-, hs⟩
    · exact absurd (hs ▸ h) (idleTick_ne_fault inp rest s f)
    · exact runNext_fault s f (hs ▸ h)

end Sys2Proof.Machine
end

section
/-!
PROOF. The CSR bank within a tick (O3, O8, O9, O12): what each address reads as, which write reaches `satp` and when it
marks translation as enabled, and what a tick without a trap or a return decides and commits.
-/

namespace Sys2Proof.Machine

/-! ### The CSR map -/

/-- An address that names a register stands in the map with it (R102). -/
theorem mem_csrMap_of_csrAt (a : CsrAddr) (c : Csr) (h : csrAt a = some c) : (a, c) ∈ csrMap := by
  rcases csrAt_cases a with ⟨c', hm, hc⟩ | hn
  · rw [h] at hc
    cases hc
    exact hm
  · rw [h] at hn
    cases hn

/-- Every mapped address is of a register stored whole, of one that ignores a write, or of a view. -/
theorem csrMap_classified : ∀ x ∈ csrMap, x.1 ∈ wholeWordCsrs ∨ x.1 ∈ readOnlyCsrs ∨ x.1 ∈ viewCsrs := by
  decide

/-- An address of none of the three kinds is unmapped. -/
theorem csrAt_unmapped (a : CsrAddr) (hw : a ∉ wholeWordCsrs) (hr : a ∉ readOnlyCsrs) (hv : a ∉ viewCsrs) :
    csrAt a = none := by
  rcases csrAt_cases a with ⟨c, hm, -⟩ | hn
  · rcases csrMap_classified _ hm with h | h | h
    · exact absurd h hw
    · exact absurd h hr
    · exact absurd h hv
  · exact hn

/-- An unmapped address reads as zero (R152). -/
theorem csrRead_of_csrAt_none (p : Params) (b : Bank) (a : CsrAddr) (h : csrAt a = none) : csrRead p b a = 0 := by
  simp [csrRead, h]

/-- Settles O3: each mapped address is looked up in the map, and an address outside the three lists is not in it. -/
theorem csrReadFollowsTheMap : Obligations.CsrReadFollowsTheMap := by
  intro p b
  refine ⟨rfl, rfl, rfl, rfl, rfl, rfl, rfl, rfl, rfl, rfl, rfl, rfl, rfl, rfl, rfl, rfl, rfl, rfl, rfl, rfl, ?_⟩
  intro a hw hr hv
  exact csrRead_of_csrAt_none p b a (csrAt_unmapped a hw hr hv)

/-! ### The cycle counter -/

/-- Settles O8: whatever a tick commits, the commit advances the counter. -/
theorem counterAdvancesEveryTick : Obligations.CounterAdvancesEveryTick := by
  intro p b priv inp r h
  obtain ⟨e, -, rfl⟩ := tick_ok _ _ _ _ _ h
  have hcyc : (commit p b priv inp e).bank.cyc = b.cyc + 1 := commitBank_cyc p b inp e.dw
  rw [hcyc, BitVec.toNat_add]
  rfl

/-! ### Writes of `satp` -/

/-- `satp` is at `0x180` and nowhere else. -/
theorem csrAt_eq_satp_iff (a : CsrAddr) : csrAt a = some .satp ↔ a = 0x180 := by
  constructor
  · intro h
    simpa [csrMap] using mem_csrMap_of_csrAt a .satp h
  · rintro rfl
    rfl

/-- The store of another register leaves `satp` as it was. -/
theorem csrStore_satp_of_ne (p : Params) (b : Bank) (d : Word) (c : Csr) (h : c ≠ .satp) :
    (csrStore p b d c).satp = b.satp := by
  cases c with
  | satp => exact absurd rfl h
  | _ => rfl

/-- An ordinary write reaches `satp` exactly at its own address (R161). -/
theorem applyOrdinary_satp (p : Params) (b : Bank) (a : CsrAddr) (d : Word) :
    (applyOrdinary p b (some (a, d))).satp = if a = 0x180 then d else b.satp := by
  by_cases ha : a = 0x180
  · subst ha
    rfl
  · rw [if_neg ha]
    rcases applyOrdinary_cases p b (some (a, d)) with h | ⟨a', d', c, hw, hc, h⟩
    · rw [h]
    · cases hw
      rw [h]
      exact csrStore_satp_of_ne p b d c fun hs => ha ((csrAt_eq_satp_iff a).mp (hs ▸ hc))

/-- `satp` in the forwarded snapshot: the data of a write of it, else the stored value (R155). -/
theorem snapshot_satp (p : Params) (b : Bank) (inp : TickInputs) :
    (snapshot p b inp).satp = if inp.csrWEn = true ∧ inp.csrWAddr = 0x180 then inp.csrWData else b.satp := by
  cases hw : inp.csrWEn with
  | false => simp [snapshot_of_no_write p b inp hw]
  | true => simp [snapshot_of_write p b inp hw, applyOrdinary_satp]

/-! ### The pulse on `start_paging` -/

/-- The tick, with this direct write or with none, commits an ordinary write of `satp` that turns translation on
(R181). -/
def EnablesPaging (p : Params) (b : Bank) (inp : TickInputs) (dw : Option DirectWrite) : Prop :=
  inp.csrWEn = true ∧ inp.csrWAddr = 0x180 ∧ b.satp.getLsbD 31 = false ∧ inp.csrWData.getLsbD 31 = true ∧
    (dw = none ∨ p.ordinaryWriteOnTrapTick = .keepUntouched)

/-- The block's own test for such a write. -/
theorem satpEnableCommitted_iff (p : Params) (b : Bank) (inp : TickInputs) (dw : Option DirectWrite) :
    satpEnableCommitted p b (ordinaryWrite inp) dw = true ↔ EnablesPaging p b inp dw := by
  cases hw : inp.csrWEn with
  | false => simp [satpEnableCommitted, ordinaryWrite, EnablesPaging, hw]
  | true =>
    simp only [satpEnableCommitted, ordinaryWrite, EnablesPaging, hw, if_true, Bool.and_eq_true, Bool.or_eq_true,
      beq_iff_eq, Option.isNone_iff_eq_none, Bool.not_eq_true', true_and]
    tauto

/-- The ordinary write is committed unless a direct write drops it (R166). -/
theorem not_dropped_iff (p : Params) (dw : Option DirectWrite) :
    ¬(dw.isSome = true ∧ p.ordinaryWriteOnTrapTick = .drop) ↔
      dw = none ∨ p.ordinaryWriteOnTrapTick = .keepUntouched := by
  cases dw with
  | none => simp
  | some v => cases p.ordinaryWriteOnTrapTick <;> simp

/-- The stored enable bit goes from 0 to 1 in a commit exactly where such a write is committed. -/
theorem commitBank_enables_iff (p : Params) (b : Bank) (inp : TickInputs) (dw : Option DirectWrite) :
    b.satp.getLsbD 31 = false ∧ (commitBank p b inp dw).satp.getLsbD 31 = true ↔ EnablesPaging p b inp dw := by
  rw [commitBank_satp, snapshot_satp, EnablesPaging, ← not_dropped_iff]
  by_cases hwrite : ¬(dw.isSome = true ∧ p.ordinaryWriteOnTrapTick = .drop) ∧
      inp.csrWEn = true ∧ inp.csrWAddr = 0x180
  · obtain ⟨hdrop, hw, ha⟩ := hwrite
    simp [hdrop, hw, ha]
  · have hkeeps : (if dw.isSome = true ∧ p.ordinaryWriteOnTrapTick = .drop then b.satp
        else if inp.csrWEn = true ∧ inp.csrWAddr = 0x180 then inp.csrWData else b.satp) = b.satp := by
      split_ifs with hdrop hsatp
      · rfl
      · exact absurd ⟨hdrop, hsatp⟩ hwrite
      · rfl
    rw [hkeeps]
    constructor
    · rintro ⟨hoff, hon⟩
      rw [hoff] at hon
      cases hon
    · rintro ⟨hw, ha, -, -, hdrop⟩
      exact absurd ⟨hdrop, hw, ha⟩ hwrite

/-- An effect makes no direct write exactly when the decision is `noTrap` (R324). -/
theorem effect_dw_eq_none_iff (dec : Decision) (priv : Priv) (snap : Bank) (e : Effect)
    (h : effect dec priv snap = .ok e) : e.dw = none ↔ dec = .noTrap := by
  obtain ⟨hredirect, hdw⟩ := effect_asserts dec priv snap e h
  rw [← Option.not_isSome_iff_eq_none, hdw, hredirect, not_not]

/-- `start_paging` is 1 exactly where the stored enable bit goes from 0 to 1. -/
theorem tick_startPaging_iff (p : Params) (b : Bank) (priv : Priv) (inp : TickInputs) (r : TickResult)
    (h : tick p b priv inp = .ok r) :
    r.out.startPaging = true ↔ b.satp.getLsbD 31 = false ∧ r.bank.satp.getLsbD 31 = true := by
  obtain ⟨e, -, rfl⟩ := tick_ok _ _ _ _ _ h
  exact (satpEnableCommitted_iff p b inp e.dw).trans (commitBank_enables_iff p b inp e.dw).symm

/-- Settles O9: the output and the stored bit are both `EnablesPaging` of the tick's direct write; a second pulse would
need the bit off again. -/
theorem startPagingMarksEnabling : Obligations.StartPagingMarksEnabling := by
  intro p b priv inp r h
  refine ⟨tick_startPaging_iff p b priv inp r h, ?_, fun hpulse inp₂ r₂ h₂ => ?_⟩
  · obtain ⟨e, he, rfl⟩ := tick_ok _ _ _ _ _ h
    rw [← effect_dw_eq_none_iff _ _ _ _ he]
    exact satpEnableCommitted_iff p b inp e.dw
  · obtain ⟨-, hon⟩ := (tick_startPaging_iff p b priv inp r h).mp hpulse
    rw [Bool.eq_false_iff]
    intro hpulse₂
    obtain ⟨hoff, -⟩ := (tick_startPaging_iff p r.bank r.priv inp₂ r₂ h₂).mp hpulse₂
    rw [hon] at hoff
    cases hoff

/-! ### A tick without a trap or a return -/

/-- What conditions 5 and 6 of R300 decide: the returns, and the SRET that TSR blocks (R211). -/
def returnDecision (p : Params) (priv : Priv) (snap : Bank) (inp : TickInputs) : Decision :=
  if kindOfBits inp.instrKind = .mret then .mret
  else if kindOfBits inp.instrKind = .sret then
    if priv = .supervisor ∧ statusTsr snap.mstatus = true then
      if p.tsrSretMode = .illegal then .excTrap illegalCode inp.idPc 0 else .noTrap
    else .sret
  else .noTrap

/-- No stage raises its exception flag. -/
theorem noFlag_iff (inp : TickInputs) :
    noFlag inp = true ↔ inp.idExcValid = false ∧ inp.memExcValid = false ∧ inp.mmuExcValid = false := by
  simp [noFlag, and_assoc]

/-- The identity is neither ECALL nor EBREAK, or the parameter has the block ignore both (R202). -/
theorem noEnvKind_iff (p : Params) (inp : TickInputs) :
    noEnvKind p inp = true ↔
      p.envFromIdentity = false ∨ kindOfBits inp.instrKind ≠ .ecall ∧ kindOfBits inp.instrKind ≠ .ebreak := by
  simp [noEnvKind]

/-- Condition 4 of R300, as the arbitration tests it. -/
theorem interruptCondition_eq (p : Params) (priv : Priv) (snap : Bank) (inp : TickInputs) :
    (inp.irq != 0 && intTaken p priv snap (intCode inp.irq)) = !noInterrupt p priv snap inp := by
  simp [noInterrupt, bne]

/-- Where none of the first four conditions of R300 holds, the last two decide. -/
theorem arbitrate_of_no_trap_condition (p : Params) (priv : Priv) (snap : Bank) (inp : TickInputs)
    (hflag : noFlag inp = true) (hkind : noEnvKind p inp = true) (hint : noInterrupt p priv snap inp = true) :
    arbitrate p priv snap inp = returnDecision p priv snap inp := by
  obtain ⟨hid, hmem, hmmu⟩ := (noFlag_iff inp).mp hflag
  have hecall : (p.envFromIdentity && kindOfBits inp.instrKind == .ecall) = false := by
    rcases (noEnvKind_iff p inp).mp hkind with h | ⟨h, -⟩ <;> simp [h]
  have hebreak : (p.envFromIdentity && kindOfBits inp.instrKind == .ebreak) = false := by
    rcases (noEnvKind_iff p inp).mp hkind with h | ⟨-, h⟩ <;> simp [h]
  simp only [arbitrate, hid, hecall, hebreak, hmem, hmmu, interruptCondition_eq, hint]
  cases hmode : p.tsrSretMode <;> simp [returnDecision, hmode]

/-- The SRET identity raises no exception of the block's own making (R202). -/
theorem noEnvKind_of_sret (p : Params) (inp : TickInputs) (h : kindOfBits inp.instrKind = .sret) :
    noEnvKind p inp = true := by
  simp [noEnvKind, h]

/-- A tick that decides on no trap answers. -/
theorem tick_answers_of_noTrap (p : Params) (b : Bank) (priv : Priv) (inp : TickInputs)
    (h : arbitrate p priv (snapshot p b inp) inp = .noTrap) : ∃ r, tick p b priv inp = .ok r :=
  ⟨_, tick_of_effect p b priv inp _ (by rw [h]; rfl)⟩

/-- Settles O12: a `noTrap` tick commits its snapshot; with no earlier condition the decision is `returnDecision`, which
is `noTrap` for an identity that is no return and for the SRET that TSR suppresses. -/
theorem noTrapTickCommitsTheWrite : Obligations.NoTrapTickCommitsTheWrite := by
  intro p b priv inp
  refine ⟨fun hdec => ?_, fun hflag hkind hint hmret hsret => ?_, fun hflag hint hsret hpriv htsr hmode => ?_⟩
  · obtain ⟨r, hr⟩ := tick_answers_of_noTrap p b priv inp hdec
    obtain ⟨hredirect, hpriv, hbank⟩ := tick_noTrap p b priv inp r hr hdec
    refine ⟨r, hr, hredirect, hpriv, fun hw => ?_, fun hw => ?_⟩
    · rw [hbank, snapshot_of_write p b inp hw]
    · rw [hbank, snapshot_of_no_write p b inp hw]
  · rw [arbitrate_of_no_trap_condition p priv _ inp hflag hkind hint]
    simp [returnDecision, hmret, hsret]
  · rw [arbitrate_of_no_trap_condition p priv _ inp hflag (noEnvKind_of_sret p inp hsret) hint]
    simp [returnDecision, hsret, hpriv, htsr, hmode]

end Sys2Proof.Machine
end

section
/-!
PROOF. The returns and the control instructions that take no effect of their own (O24, O36, O38, O40): what a tick of a
control instruction presents, and what the instruction does for each decision of that tick.
-/

namespace Sys2Proof.Machine

/-! ### What the tick of a control instruction presents -/

section
variable (k : InstrKind) (s : State)

@[simp] theorem controlInputs_idPc : (controlInputs k s).idPc = s.pc := rfl
@[simp] theorem controlInputs_kind : kindOfBits (controlInputs k s).instrKind = k := kindOfBits_kindBits k

end

/-- The decision of the tick that presents the control instruction `k` (R300). -/
def controlDecision (k : InstrKind) (s : State) : Decision :=
  arbitrate s.params s.priv (snapshot s.params s.bank (controlInputs k s)) (controlInputs k s)

/-- A return whose tick raises no flag and takes no interrupt is decided by conditions 5 and 6 of R300. -/
theorem controlDecision_of_return (k : InstrKind) (s : State) (hk : k = .mret ∨ k = .sret)
    (hflag : noFlag (envInputs s.env) = true)
    (hint : noInterrupt s.params s.priv (snapshot s.params s.bank (controlInputs k s)) (controlInputs k s) = true) :
    controlDecision k s =
      returnDecision s.params s.priv (snapshot s.params s.bank (controlInputs k s)) (controlInputs k s) := by
  have hkind : noEnvKind s.params (controlInputs k s) = true := by
    rw [noEnvKind_iff, controlInputs_kind]
    rcases hk with rfl | rfl <;> exact .inr ⟨by decide, by decide⟩
  exact arbitrate_of_no_trap_condition _ _ _ _ hflag hkind hint

/-! ### The effect of each decision -/

/-- Settles O24: the effect of the decision is `returnFromS`, whose direct write is that of a return. -/
theorem supervisorReturn : Obligations.SupervisorReturn := by
  intro p b priv inp hdec
  have htick : tick p b priv inp = .ok (commit p b priv inp (returnFromS (snapshot p b inp))) :=
    tick_of_effect p b priv inp _ (by rw [hdec]; rfl)
  obtain ⟨hstatus, hkept⟩ :=
    commitBank_returnWrite p b inp (snapshot p b inp) (statusReturnS (snapshot p b inp).mstatus)
  exact ⟨_, htick, rfl, rfl, rfl, hstatus ▸ statusReturnS_spec _, hkept⟩

/-- A return from machine trap with the reserved MPP stops the tick (R206). -/
theorem tick_mret_of_reserved (p : Params) (b : Bank) (priv : Priv) (inp : TickInputs)
    (hdec : arbitrate p priv (snapshot p b inp) inp = .mret) (hmpp : ¬ LegalMpp (snapshot p b inp)) :
    tick p b priv inp = .error .reservedMPP := by
  have hnone : privOfBits (statusMpp (snapshot p b inp).mstatus) = none :=
    (privOfBits_eq_none _).mpr (not_not.mp hmpp)
  simp [tick, hdec, effect, returnFromM, hnone]

/-- An exception goes to Supervisor exactly from below Machine with its `medeleg` bit set (R304). -/
theorem excTarget_eq (priv : Priv) (snap : Bank) (c : Code) : excTarget priv snap c =
    if priv ≠ .machine ∧ c.toNat < 32 ∧ snap.medeleg.getLsbD c.toNat = true then .supervisor else .machine := by
  simp [excTarget, and_assoc]

/-- What the commit of an exception leaves, whichever mode it enters (R304, R320, R321). -/
theorem commit_exception (p : Params) (b : Bank) (priv : Priv) (inp : TickInputs) (snap : Bank) (code : Code)
    (epc tval : Word) (e : Effect) (he : effect (.excTrap code epc tval) priv snap = .ok e) :
    TookException priv snap code epc tval (commit p b priv inp e).bank (commit p b priv inp e).priv
      (commit p b priv inp e).out.redirectTarget := by
  cases he
  rw [excTarget_eq, TookException]
  split_ifs
  · exact commit_trapEnterS p b priv inp snap false code epc tval
  · exact commit_trapEnterM p b priv inp snap false code epc tval

/-! ### A control instruction, by the decision of its tick -/

/-- A control instruction whose tick faults faults (R185). -/
theorem execControl_of_tick_error (k : InstrKind) (s : State) (f : Fault)
    (h : tick s.params s.bank s.priv (controlInputs k s) = .error f) : execControl k s = .fault f := by
  simp [execControl, h]

/-- Fetch goes on at a redirect where one is asserted (R340). -/
theorem nextFetch_of_redirect (fallthrough : Word) (inp : TickInputs) (out : TickOutputs)
    (h : out.redirectValid = true) : nextFetch fallthrough inp out = out.redirectTarget := by
  simp [nextFetch, h]

/-- Where no redirect is asserted, fetch goes on at a jump or falls through (log entry 12). -/
theorem nextFetch_of_no_redirect (fallthrough : Word) (inp : TickInputs) (out : TickOutputs)
    (h : out.redirectValid = false) :
    nextFetch fallthrough inp out = if inp.jumpValid then inp.jumpTarget else fallthrough := by
  simp [nextFetch, h]

/-- Where the decision is `noTrap` the tick's ordinary write is committed and the driver goes on (R163, R231). -/
theorem execControl_of_noTrap (k : InstrKind) (s : State) (hdec : controlDecision k s = .noTrap) :
    ∃ t o, execControl k s = .next t ∧ t.outs = [o] ∧ DriverKept s t ∧ o.redirectValid = false ∧
      t.priv = s.priv ∧
      t.bank = { snapshot s.params s.bank (controlInputs k s) with cyc := s.bank.cyc + 1 } ∧
      t.pc = (if (envInputs s.env).jumpValid then (envInputs s.env).jumpTarget else s.pc + 4) ∧
      t.env = envAfter s.env := by
  obtain ⟨r, hr⟩ := tick_answers_of_noTrap _ _ _ _ hdec
  obtain ⟨hredirect, hpriv, hbank⟩ := tick_noTrap _ _ _ _ r hr hdec
  exact ⟨_, r.out, execControl_of_tick k s r hr, rfl, driverKept_afterTick .., hredirect, hpriv, hbank,
    nextFetch_of_no_redirect _ _ _ hredirect, rfl⟩

/-- Where the decision is an exception it is taken, and the driver goes on at the handler (R324, R340). -/
theorem execControl_of_excTrap (k : InstrKind) (s : State) (code : Code) (epc tval : Word)
    (hdec : controlDecision k s = .excTrap code epc tval) :
    ∃ t o, execControl k s = .next t ∧ t.outs = [o] ∧ DriverKept s t ∧ o.redirectValid = true ∧
      t.bank.cyc = s.bank.cyc + 1 ∧
      TookException s.priv (snapshot s.params s.bank (controlInputs k s)) code epc tval t.bank t.priv t.pc ∧
      t.env = envAfter s.env := by
  obtain ⟨e, he⟩ : ∃ e, effect (controlDecision k s) s.priv (snapshot s.params s.bank (controlInputs k s)) = .ok e :=
    ⟨_, by rw [hdec]; rfl⟩
  have htick := tick_of_effect s.params s.bank s.priv (controlInputs k s) e he
  rw [hdec] at he
  have hredirect : e.redirectValid = true := (effect_asserts _ _ _ e he).1.mpr (by simp)
  refine ⟨_, _, execControl_of_tick k s _ htick, rfl, driverKept_afterTick .., hredirect, commitBank_cyc .., ?_, rfl⟩
  rw [State.afterTick_pc, nextFetch_of_redirect _ _ _ hredirect]
  exact commit_exception _ _ _ _ _ code epc tval e he

/-! ### ECALL and EBREAK with their identities ignored -/

/-- A quiet environment raises no flag, holds no line and asserts no jump. -/
theorem quiet_iff (inp : TickInputs) :
    quiet inp = true ↔ noFlag inp = true ∧ inp.irq = 0 ∧ inp.jumpValid = false := by
  simp [quiet, and_assoc]

/-- With no line held no interrupt is taken (R310). -/
theorem noInterrupt_of_irq_zero (p : Params) (priv : Priv) (snap : Bank) (inp : TickInputs) (h : inp.irq = 0) :
    noInterrupt p priv snap inp = true := by
  simp [noInterrupt, h]

/-- With `ENV_FROM_IDENTITY` false and a quiet environment, an identity that is no return decides nothing (R202). -/
theorem controlDecision_of_ignored (k : InstrKind) (s : State) (hmret : k ≠ .mret) (hsret : k ≠ .sret)
    (hp : s.params.envFromIdentity = false) (hq : quiet (envInputs s.env) = true) :
    controlDecision k s = .noTrap := by
  obtain ⟨hflag, hirq, -⟩ := (quiet_iff _).mp hq
  obtain ⟨-, hnone, -⟩ := noTrapTickCommitsTheWrite s.params s.bank s.priv (controlInputs k s)
  exact hnone hflag ((noEnvKind_iff _ _).mpr (.inl hp)) (noInterrupt_of_irq_zero _ _ _ _ hirq)
    (by rwa [controlInputs_kind]) (by rwa [controlInputs_kind])

/-- Settles O36: the tick decides on no trap, its snapshot is the stored bank, and there is no jump to follow. -/
theorem identityIgnoredWithoutParameter : Obligations.IdentityIgnoredWithoutParameter := by
  intro s i hi hp hq hw
  obtain ⟨k, hexec, hmret, hsret⟩ : ∃ k, exec i s = execControl k s ∧ k ≠ .mret ∧ k ≠ .sret := by
    rcases hi with rfl | rfl
    · exact ⟨.ecall, exec_of_controlKind _ _ rfl s, by decide, by decide⟩
    · exact ⟨.ebreak, exec_of_controlKind _ _ rfl s, by decide, by decide⟩
  obtain ⟨-, -, hjump⟩ := (quiet_iff _).mp hq
  obtain ⟨t, -, hnext, -, hkept, -, hpriv, hbank, hpc, henv⟩ :=
    execControl_of_noTrap k s (controlDecision_of_ignored k s hmret hsret hp hq)
  rw [snapshot_of_no_write s.params s.bank (controlInputs k s) hw] at hbank
  exact ⟨t, hexec.trans hnext, hpriv, hbank, by simpa [hjump] using hpc, henv, hkept⟩

/-! ### MRET with the reserved MPP -/

/-- Settles O38: with no earlier condition the MRET identity decides on the return, which stops its tick. -/
theorem mretWithReservedMppFaults : Obligations.MretWithReservedMppFaults := by
  intro s hflag hint hmpp
  have hdec : controlDecision .mret s = .mret := by
    rw [controlDecision_of_return .mret s (.inl rfl) hflag hint]
    simp [returnDecision]
  rw [exec_of_controlKind .mret .mret rfl s]
  exact execControl_of_tick_error _ _ _ (tick_mret_of_reserved _ _ _ _ hdec hmpp)

/-! ### SRET under TSR -/

/-- What an SRET at Supervisor with TSR set decides, by the value of `TSR_SRET_MODE` (R211). -/
theorem controlDecision_sret_of_tsr (s : State) (hflag : noFlag (envInputs s.env) = true)
    (hpriv : s.priv = .supervisor)
    (hint : noInterrupt s.params s.priv (snapshot s.params s.bank (controlInputs .sret s))
      (controlInputs .sret s) = true)
    (htsr : statusTsr (snapshot s.params s.bank (controlInputs .sret s)).mstatus = true) :
    controlDecision .sret s =
      if s.params.tsrSretMode = .illegal then .excTrap illegalCode s.pc 0 else .noTrap := by
  rw [controlDecision_of_return .sret s (.inr rfl) hflag hint]
  simp [returnDecision, hpriv, htsr]

/-- Settles O40: the decision is `noTrap` under `NOOP` and the illegal-instruction exception under `ILLEGAL`. -/
theorem sretUnderTsrAtSupervisor : Obligations.SretUnderTsrAtSupervisor := by
  intro s hflag hpriv hint htsr
  have hdec := controlDecision_sret_of_tsr s hflag hpriv hint htsr
  rw [exec_of_controlKind .sret .sret rfl s]
  cases hmode : s.params.tsrSretMode with
  | noop =>
    obtain ⟨t, o, hnext, houts, hkept, hredirect, hpriv', hbank, hpc, -⟩ :=
      execControl_of_noTrap .sret s (by simpa [hmode] using hdec)
    exact ⟨t, o, hnext, houts, hkept, fun _ => ⟨hredirect, hpriv'.trans hpriv, hbank, hpc⟩, nofun⟩
  | illegal =>
    obtain ⟨t, o, hnext, houts, hkept, hredirect, hcyc, htook, -⟩ :=
      execControl_of_excTrap .sret s illegalCode s.pc 0 (by simpa [hmode] using hdec)
    exact ⟨t, o, hnext, houts, hkept, nofun, fun _ => ⟨hredirect, hcyc, hpriv ▸ htook⟩⟩

end Sys2Proof.Machine
end

section
/-!
PROOF. The control instructions (O34, O35, O37, O39, O41, O42): what a tick leaves outside the direct-write set, the frame
that all four share, and what each does where its tick decides on its own trap or return, or on an interrupt.
-/

namespace Sys2Proof.Machine

/-! ### What a tick leaves outside the direct-write set -/

/-- A tick that redirects under `DROP` keeps the stored registers outside the direct-write set, and any other tick leaves
those of the snapshot (R163, R166). -/
theorem tick_outside (p : Params) (b : Bank) (priv : Priv) (inp : TickInputs) (r : TickResult)
    (h : tick p b priv inp = .ok r) :
    SameOutsideDirectSet
      (if r.out.redirectValid = true ∧ p.ordinaryWriteOnTrapTick = .drop then b else snapshot p b inp) r.bank := by
  obtain ⟨e, he, rfl⟩ := tick_ok _ _ _ _ _ h
  obtain ⟨-, hdw⟩ := effect_asserts _ _ _ e he
  have hredirect : (commit p b priv inp e).out.redirectValid = e.dw.isSome := hdw.symm
  have hbank : (commit p b priv inp e).bank = commitBank p b inp e.dw := rfl
  rw [hredirect, hbank]
  cases e.dw with
  | none => exact ⟨rfl, rfl, rfl, rfl, rfl, rfl, rfl, rfl⟩
  | some v => simpa using commitBank_outside p b inp v

/-- A trap entry changes no reserved bit of `mstatus`, nor TSR, whichever mode it enters (R34, R320, R321). -/
theorem takeTrap_untrappedStatus (target priv : Priv) (snap : Bank) (intr : Bool) (code : Code) (epc tval : Word)
    (v : DirectWrite) (hv : (takeTrap target priv snap intr code epc tval).dw = some v) (j : Nat)
    (hj : j ∈ untrappedStatusBits) : v.mstatus.getLsbD j = snap.mstatus.getLsbD j := by
  obtain ⟨-, -, -, hkeepM⟩ := statusEnterM_spec snap.mstatus priv
  obtain ⟨-, -, -, hkeepS⟩ := statusEnterS_spec snap.mstatus priv
  have hoff : ∀ j ∈ untrappedStatusBits, j ∉ [3, 7, 11, 12] ∧ j ∉ [1, 5, 8] := by decide
  obtain ⟨hoffM, hoffS⟩ := hoff j hj
  cases target with
  | user | machine => cases hv; exact hkeepM j hoffM
  | supervisor => cases hv; exact hkeepS j hoffS

/-- No direct write changes a reserved bit of `mstatus`, nor TSR (R34). -/
theorem effect_untrappedStatus (dec : Decision) (priv : Priv) (snap : Bank) (e : Effect) (v : DirectWrite)
    (he : effect dec priv snap = .ok e) (hv : e.dw = some v) (j : Nat) (hj : j ∈ untrappedStatusBits) :
    v.mstatus.getLsbD j = snap.mstatus.getLsbD j := by
  have hoff : ∀ j ∈ untrappedStatusBits, j ∉ [3, 7, 11, 12, 17] ∧ j ∉ [1, 5, 8, 17] := by decide
  obtain ⟨hoffM, hoffS⟩ := hoff j hj
  cases dec with
  | excTrap c epc tval => cases he; exact takeTrap_untrappedStatus _ _ _ _ _ _ _ v hv j hj
  | intTrap c epc => cases he; exact takeTrap_untrappedStatus _ _ _ _ _ _ _ v hv j hj
  | mret =>
    simp only [effect, returnFromM] at he
    split at he
    · rename_i np _
      obtain ⟨-, -, -, -, hkeep⟩ := statusReturnM_spec snap.mstatus np
      cases he; cases hv; exact hkeep j hoffM
    · cases he
  | sret =>
    obtain ⟨-, -, -, -, hkeep⟩ := statusReturnS_spec snap.mstatus
    cases he; cases hv; exact hkeep j hoffS
  | noTrap => cases he; cases hv

/-- A tick leaves the reserved bits of `mstatus` and TSR as in its snapshot (R34). -/
theorem tick_untrappedStatus (p : Params) (b : Bank) (priv : Priv) (inp : TickInputs) (r : TickResult)
    (h : tick p b priv inp = .ok r) (j : Nat) (hj : j ∈ untrappedStatusBits) :
    r.bank.mstatus.getLsbD j = (snapshot p b inp).mstatus.getLsbD j := by
  obtain ⟨e, he, rfl⟩ := tick_ok _ _ _ _ _ h
  have hbank : (commit p b priv inp e).bank = commitBank p b inp e.dw := rfl
  rw [hbank]
  cases hdw : e.dw with
  | none => rfl
  | some v =>
    obtain ⟨hstatus, -⟩ := commitBank_direct p b inp v
    rw [hstatus]
    exact effect_untrappedStatus _ _ _ e v he hdw j hj

/-- A tick that answers advances the counter by one (R175). -/
theorem tick_cyc (p : Params) (b : Bank) (priv : Priv) (inp : TickInputs) (r : TickResult)
    (h : tick p b priv inp = .ok r) : r.bank.cyc = b.cyc + 1 := by
  obtain ⟨e, -, rfl⟩ := tick_ok _ _ _ _ _ h
  exact commitBank_cyc p b inp e.dw

/-! ### The frame of the four control instructions -/

/-- What every control instruction leaves unchanged, and that it is one tick (R231). -/
theorem execControl_frame (k : InstrKind) (s t : State) (h : execControl k s = .next t) :
    DriverKept s t ∧ t.env = envAfter s.env ∧ t.outs.length = 1 ∧ t.bank.cyc = s.bank.cyc + 1 ∧
      ((envInputs s.env).csrWEn = false →
        SameOutsideDirectSet s.bank t.bank ∧
        ∀ j, j ∈ untrappedStatusBits → t.bank.mstatus.getLsbD j = s.bank.mstatus.getLsbD j) := by
  obtain ⟨r, hr, rfl⟩ := execControl_next k s t h
  refine ⟨driverKept_afterTick .., rfl, rfl, tick_cyc _ _ _ _ r hr, fun hw => ?_⟩
  have hsnap : snapshot s.params s.bank (controlInputs k s) = s.bank := snapshot_of_no_write _ _ _ hw
  have houtside := tick_outside _ _ _ _ r hr
  have hstatus := tick_untrappedStatus _ _ _ _ r hr
  rw [hsnap, ite_self] at houtside
  rw [hsnap] at hstatus
  exact ⟨houtside, hstatus⟩

/-- Settles O42: the frame of `execControl`, which each of the four instructions is. -/
theorem controlInstructionFrame : Obligations.ControlInstructionFrame := by
  intro s t i k hk h
  rw [exec_of_controlKind i k hk s] at h
  exact execControl_frame k s t h

/-! ### ECALL and EBREAK -/

section
variable (k : InstrKind) (s : State)

@[simp] theorem controlInputs_idExcValid : (controlInputs k s).idExcValid = (envInputs s.env).idExcValid := rfl
@[simp] theorem controlInputs_idExcCode : (controlInputs k s).idExcCode = (envInputs s.env).idExcCode := rfl

end

/-- An ECALL that the block does not ignore decides on its environment call, unless the decode stage's flag comes first
(R202, R300). -/
theorem controlDecision_ecall (s : State) (hp : s.params.envFromIdentity = true) :
    controlDecision .ecall s =
      .excTrap (if (envInputs s.env).idExcValid then (envInputs s.env).idExcCode else ecallCode s.priv) s.pc 0 := by
  cases hflag : (envInputs s.env).idExcValid with
  | true => simp [controlDecision, arbitrate, hflag]
  | false => simp [controlDecision, arbitrate, hflag, hp]

/-- An EBREAK that the block does not ignore decides on the breakpoint, unless the decode stage's flag comes first. -/
theorem controlDecision_ebreak (s : State) (hp : s.params.envFromIdentity = true) :
    controlDecision .ebreak s =
      .excTrap (if (envInputs s.env).idExcValid then (envInputs s.env).idExcCode else breakpointCode) s.pc 0 := by
  cases hflag : (envInputs s.env).idExcValid with
  | true => simp [controlDecision, arbitrate, hflag]
  | false => simp [controlDecision, arbitrate, hflag, hp]

/-- Settles O34: the tick decides on the environment call, and the rest is the frame. -/
theorem ecallTakesEnvironmentCall : Obligations.EcallTakesEnvironmentCall := by
  intro s hp
  obtain ⟨t, o, hnext, houts, hkept, hredirect, hcyc, htook, henv⟩ :=
    execControl_of_excTrap .ecall s _ _ _ (controlDecision_ecall s hp)
  obtain ⟨-, -, -, -, houtside⟩ := execControl_frame .ecall s t hnext
  exact ⟨t, o, hnext, houts, hredirect, htook, hcyc, henv, hkept, fun hw => (houtside hw).1⟩

/-- Settles O35: the tick decides on the breakpoint, and the rest is the frame. -/
theorem ebreakTakesBreakpoint : Obligations.EbreakTakesBreakpoint := by
  intro s hp
  obtain ⟨t, o, hnext, houts, hkept, hredirect, hcyc, htook, henv⟩ :=
    execControl_of_excTrap .ebreak s _ _ _ (controlDecision_ebreak s hp)
  obtain ⟨-, -, -, -, houtside⟩ := execControl_frame .ebreak s t hnext
  exact ⟨t, o, hnext, houts, hredirect, htook, hcyc, henv, hkept, fun hw => (houtside hw).1⟩

/-! ### The returns -/

/-- A control instruction whose tick redirects leaves what the tick committed, and the driver goes on at the redirect's
target (R340). -/
theorem execControl_of_redirect (k : InstrKind) (s : State) (r : TickResult)
    (hr : tick s.params s.bank s.priv (controlInputs k s) = .ok r) (hredirect : r.out.redirectValid = true) :
    ∃ t, execControl k s = .next t ∧ t.outs = [r.out] ∧ t.bank = r.bank ∧ t.priv = r.priv ∧
      t.pc = r.out.redirectTarget :=
  ⟨_, execControl_of_tick k s r hr, rfl, rfl, rfl, nextFetch_of_redirect _ _ _ hredirect⟩

/-- A tick that decides on a return from machine trap with a legal MPP returns to the mode MPP encodes (R205). -/
theorem tick_mret_of_legal (p : Params) (b : Bank) (priv : Priv) (inp : TickInputs)
    (hdec : arbitrate p priv (snapshot p b inp) inp = .mret) (hmpp : LegalMpp (snapshot p b inp)) :
    ∃ r, tick p b priv inp = .ok r ∧ r.out.redirectValid = true ∧ r.out.redirectTarget = (snapshot p b inp).mepc ∧
      privBits r.priv = statusMpp (snapshot p b inp).mstatus ∧
      MachineReturnStatus r.priv (snapshot p b inp).mstatus r.bank.mstatus ∧
      TrapRegistersKept (snapshot p b inp) r.bank := by
  cases hnp : privOfBits (statusMpp (snapshot p b inp).mstatus) with
  | none => exact absurd ((privOfBits_eq_none _).mp hnp) hmpp
  | some np =>
    have heffect : effect (arbitrate p priv (snapshot p b inp) inp) priv (snapshot p b inp) =
        .ok { dw := some (returnWrite (snapshot p b inp) (statusReturnM (snapshot p b inp).mstatus np)),
              redirectValid := true, redirectTarget := (snapshot p b inp).mepc, newPriv := np } := by
      simp only [hdec, effect, returnFromM, hnp]
    obtain ⟨hstatus, hkept⟩ :=
      commitBank_returnWrite p b inp (snapshot p b inp) (statusReturnM (snapshot p b inp).mstatus np)
    refine ⟨_, tick_of_effect p b priv inp _ heffect, rfl, rfl, privBits_of_privOfBits _ np hnp, ?_, hkept⟩
    exact hstatus.symm ▸ statusReturnM_spec (snapshot p b inp).mstatus np

/-- Settles O37: with no earlier condition the MRET identity decides on the return, which a legal MPP lets happen. -/
theorem mretReturnsFromMachineTrap : Obligations.MretReturnsFromMachineTrap := by
  intro s hflag hint hmpp
  have hdec : controlDecision .mret s = .mret := by
    rw [controlDecision_of_return .mret s (.inl rfl) hflag hint]
    simp [returnDecision]
  obtain ⟨r, hr, hredirect, htarget, hpriv, hstatus, hregs⟩ := tick_mret_of_legal _ _ _ _ hdec hmpp
  obtain ⟨t, hnext, houts, hbank, hpriv', hpc⟩ := execControl_of_redirect .mret s r hr hredirect
  obtain ⟨hkept, henv, -, hcyc, houtside⟩ := execControl_frame .mret s t hnext
  rw [← hpriv', ← hbank] at hstatus
  exact ⟨t, r.out, hnext, houts, hredirect, hpc.trans htarget, hpriv' ▸ hpriv, hstatus, hbank ▸ hregs, hcyc, henv,
    hkept, fun hw => (houtside hw).1⟩

/-- An SRET that TSR does not block decides on the return where no earlier condition holds (R208, R211). -/
theorem controlDecision_sret_of_not_blocked (s : State) (hflag : noFlag (envInputs s.env) = true)
    (hint : noInterrupt s.params s.priv (snapshot s.params s.bank (controlInputs .sret s))
      (controlInputs .sret s) = true)
    (htsr : s.priv ≠ .supervisor ∨
      statusTsr (snapshot s.params s.bank (controlInputs .sret s)).mstatus = false) :
    controlDecision .sret s = .sret := by
  rw [controlDecision_of_return .sret s (.inr rfl) hflag hint]
  rcases htsr with h | h <;> simp [returnDecision, h]

/-- Settles O39: the unblocked SRET decides on the return of O24. -/
theorem sretReturnsFromSupervisorTrap : Obligations.SretReturnsFromSupervisorTrap := by
  intro s hflag hint htsr
  obtain ⟨r, hr, hredirect, htarget, hpriv, hstatus, hregs⟩ :=
    supervisorReturn s.params s.bank s.priv _ (controlDecision_sret_of_not_blocked s hflag hint htsr)
  obtain ⟨t, hnext, houts, hbank, hpriv', hpc⟩ := execControl_of_redirect .sret s r hr hredirect
  obtain ⟨hkept, henv, -, hcyc, houtside⟩ := execControl_frame .sret s t hnext
  exact ⟨t, r.out, hnext, houts, hredirect, hpc.trans htarget, hpriv'.trans hpriv, hbank ▸ hstatus, hbank ▸ hregs,
    hcyc, henv, hkept, fun hw => (houtside hw).1⟩

/-! ### A return overtaken by an interrupt -/

/-- An interrupt goes to Supervisor exactly from below Machine with its `mideleg` bit set (R313). -/
theorem intTarget_eq (priv : Priv) (snap : Bank) (c : Code) : intTarget priv snap c =
    if priv ≠ .machine ∧ snap.mideleg.getLsbD c.toNat = true then .supervisor else .machine := by
  simp [intTarget]

/-- A tick that decides on an interrupt takes it, into the mode that `mideleg` gives (R313, R320, R321). -/
theorem tick_intTrap (p : Params) (b : Bank) (priv : Priv) (inp : TickInputs) (code : Code) (epc : Word)
    (hdec : arbitrate p priv (snapshot p b inp) inp = .intTrap code epc) :
    ∃ r, tick p b priv inp = .ok r ∧ r.out.redirectValid = true ∧
      if priv ≠ .machine ∧ (snapshot p b inp).mideleg.getLsbD code.toNat = true
      then EnteredSupervisor priv (snapshot p b inp) true code epc 0 r.bank r.priv r.out.redirectTarget
      else EnteredMachine priv (snapshot p b inp) true code epc 0 r.bank r.priv r.out.redirectTarget := by
  have hr := tick_of_effect p b priv inp
    (takeTrap (intTarget priv (snapshot p b inp) code) priv (snapshot p b inp) true code epc 0) (by rw [hdec]; rfl)
  refine ⟨_, hr, (takeTrap_asserts ..).1, ?_⟩
  rw [intTarget_eq]
  split_ifs
  · exact commit_trapEnterS p b priv inp _ true code epc 0
  · exact commit_trapEnterM p b priv inp _ true code epc 0

/-- Where no earlier condition of R300 holds, an interrupt that passes its gate is taken. -/
theorem arbitrate_of_interrupt (p : Params) (priv : Priv) (snap : Bank) (inp : TickInputs)
    (hflag : noFlag inp = true) (hkind : noEnvKind p inp = true) (hint : noInterrupt p priv snap inp = false) :
    arbitrate p priv snap inp = .intTrap (intCode inp.irq) (intReturnAddress inp) := by
  obtain ⟨hid, hmem, hmmu⟩ := (noFlag_iff inp).mp hflag
  have hecall : (p.envFromIdentity && kindOfBits inp.instrKind == .ecall) = false := by
    rcases (noEnvKind_iff p inp).mp hkind with h | ⟨h, -⟩ <;> simp [h]
  have hebreak : (p.envFromIdentity && kindOfBits inp.instrKind == .ebreak) = false := by
    rcases (noEnvKind_iff p inp).mp hkind with h | ⟨-, h⟩ <;> simp [h]
  simp only [arbitrate, hid, hecall, hebreak, hmem, hmmu, interruptCondition_eq, hint, Bool.false_eq_true, if_false,
    Bool.not_false, if_true]

/-- Settles O41: neither return identity is an earlier condition than the interrupt, so the tick takes it. -/
theorem returnOvertakenByInterrupt : Obligations.ReturnOvertakenByInterrupt := by
  intro s i k hi hk hflag hint
  have hkind : noEnvKind s.params (controlInputs k s) = true := by
    rw [noEnvKind_iff, controlInputs_kind]
    rcases hi with rfl | rfl <;> cases hk <;> exact .inr ⟨by decide, by decide⟩
  obtain ⟨r, hr, hredirect, hentered⟩ :=
    tick_intTrap _ _ _ _ _ _ (arbitrate_of_interrupt _ _ _ (controlInputs k s) hflag hkind hint)
  obtain ⟨t, hnext, -, hbank, hpriv, hpc⟩ := execControl_of_redirect k s r hr hredirect
  obtain ⟨hkept, -, -, hcyc, -⟩ := execControl_frame k s t hnext
  rw [← hbank, ← hpriv, ← hpc] at hentered
  exact ⟨t, (exec_of_controlKind i k hk s).trans hnext, hcyc, hkept, hentered⟩

end Sys2Proof.Machine
end

section
/-!
PROOF. The CSR instructions (O43 to O50): which storage an ordinary write reaches, the two ticks of a CSR instruction in
every environment, and what they come to where both are quiet and where the write tick traps.
-/

namespace Sys2Proof.Machine

/-! ### What an ordinary write leaves unchanged -/

/-- The register that holds what a register or view reads as (R36, R42). -/
def backing : Csr → Csr
  | .sstatus => .mstatus
  | .sie => .mie
  | c => c

/-- A store leaves every register and view over other storage reading as before (R161): of each pair, either the store
updates a field of the bank that the read does not look at, or the two have one backing register. -/
theorem csrValue_csrStore_of_backing_ne (p : Params) (b : Bank) (d : Word) (c c' : Csr) (h : backing c ≠ backing c') :
    csrValue p (csrStore p b d c) c' = csrValue p b c' := by
  cases c <;> cases c' <;> first | rfl | exact absurd rfl h

/-- Addresses that do not share storage name registers with different storage. -/
theorem backing_ne_of_not_shareStorage : ∀ x ∈ csrMap, ∀ y ∈ csrMap, shareStorage x.1 y.1 = false →
    backing x.2 ≠ backing y.2 := by
  decide

/-- An ordinary write leaves every address that does not share its storage reading as before (R160, R161). -/
theorem csrRead_applyOrdinary_of_not_shareStorage (p : Params) (b : Bank) (a a' : CsrAddr) (d : Word)
    (h : shareStorage a a' = false) : csrRead p (applyOrdinary p b (some (a, d))) a' = csrRead p b a' := by
  rcases applyOrdinary_cases p b (some (a, d)) with hkeep | ⟨_, _, c, hw, hc, hstore⟩
  · rw [hkeep]
  · cases hw
    rw [hstore]
    cases hc' : csrAt a' with
    | none => rw [csrRead_of_csrAt_none _ _ _ hc', csrRead_of_csrAt_none _ _ _ hc']
    | some c' =>
      have hne : backing c ≠ backing c' :=
        backing_ne_of_not_shareStorage _ (mem_csrMap_of_csrAt a c hc) _ (mem_csrMap_of_csrAt a' c' hc') h
      simpa only [csrRead, hc'] using csrValue_csrStore_of_backing_ne p b d c c' hne

/-- An ordinary write neither depends on the cycle counter nor changes it (R46). -/
theorem applyOrdinary_with_cyc (p : Params) (b : Bank) (w : Option (CsrAddr × Word)) (n : Counter) :
    applyOrdinary p { b with cyc := n } w = { applyOrdinary p b w with cyc := n } := by
  cases w with
  | none => rfl
  | some v =>
    obtain ⟨a, d⟩ := v
    cases h : csrAt a with
    | none => simp only [applyOrdinary, h]
    | some c => simp only [applyOrdinary, h]; cases c <;> rfl

/-- An address that trap logic never writes reads from the registers outside the direct-write set alone (R33). -/
theorem csrRead_of_sameOutsideDirectSet (p : Params) (b b' : Bank) (h : SameOutsideDirectSet b b') (a : CsrAddr)
    (ha : a ∈ untrappedCsrs) : csrRead p b' a = csrRead p b a := by
  obtain ⟨hmtvec, hstvec, hmedeleg, hmideleg, hmie, hmscratch, hsscratch, hsatp⟩ := h
  simp only [untrappedCsrs, List.mem_cons, List.not_mem_nil, or_false] at ha
  rcases ha with rfl | rfl | rfl | rfl | rfl | rfl | rfl | rfl | rfl | rfl
  · exact congrArg (· &&& p.sieMask) hmie
  · exact hstvec
  · exact hsscratch
  · exact hsatp
  · rfl
  · exact hmedeleg
  · exact hmideleg
  · exact hmie
  · exact hmtvec
  · exact hmscratch

/-- A tick changes what such an address reads as only by an ordinary write to storage that it shares. -/
theorem tick_csrRead_untrapped (p : Params) (b : Bank) (priv : Priv) (inp : TickInputs) (r : TickResult)
    (h : tick p b priv inp = .ok r) (a : CsrAddr) (ha : a ∈ untrappedCsrs)
    (hw : inp.csrWEn = false ∨ shareStorage inp.csrWAddr a = false) : csrRead p r.bank a = csrRead p b a := by
  have hsnap : csrRead p (snapshot p b inp) a = csrRead p b a := by
    cases hwe : inp.csrWEn with
    | false => rw [snapshot_of_no_write p b inp hwe]
    | true =>
      rw [snapshot_of_write p b inp hwe]
      exact csrRead_applyOrdinary_of_not_shareStorage p b _ a _ (hw.resolve_left (by simp [hwe]))
  rw [csrRead_of_sameOutsideDirectSet p _ _ (tick_outside p b priv inp r h) a ha]
  split_ifs
  · rfl
  · exact hsnap

/-! ### The two ticks of a CSR instruction -/

/-- The run of a CSR instruction from `s` to `t`: its read tick `r`, its write tick `r₂` with write enable `we` and data
`d`, and what the driver makes of them (R231). -/
structure CsrRun (s : State) (rd : Nat) (csr : CsrAddr) (we : Bool) (d : Word) (r r₂ : TickResult) (t : State) :
    Prop where
  readTick : tick s.params s.bank s.priv (csrReadInputs s.env s.pc csr) = .ok r
  writeTick : tick s.params r.bank r.priv (csrWriteInputs (envAfter s.env) s.pc csr we d) = .ok r₂
  wroteRd : DriverWroteRd rd (csrRead s.params s.bank csr) s t
  otherRegisters : ∀ q, q ≠ rd → xRead t q = xRead s q
  bank : t.bank = r₂.bank
  priv : t.priv = r₂.priv
  pc : t.pc = nextFetch (nextFetch (s.pc + 4) (csrReadInputs s.env s.pc csr) r.out)
    (csrWriteInputs (envAfter s.env) s.pc csr we d) r₂.out
  env : t.env = envAfter (envAfter s.env)
  outs : t.outs = [r.out, r₂.out]

/-- A CSR instruction is `execCsr` with the write enable and the new value of its presented write (R232 to R237). -/
theorem exec_csr_presents (i : Instr) (rd : Nat) (csr : CsrAddr) (h : csrOperands i = some (rd, csr)) (s : State) :
    ∃ we new, exec i s = execCsr rd csr we new s ∧
      ∀ old, csrPresentedWrite s old i = if we then some (csr, new old) else none := by
  cases i with
  | ecall | ebreak | sret | mret => cases h
  | csrrw _ _ rs1 => cases h; exact ⟨true, fun _ => xRead s rs1, rfl, fun _ => rfl⟩
  | csrrs _ _ rs1 =>
    cases h
    refine ⟨rs1 != 0, fun old => csrSetBits old (xRead s rs1), rfl, fun old => ?_⟩
    by_cases h0 : rs1 = 0 <;> simp [csrPresentedWrite, csrSetBits, h0]
  | csrrc _ _ rs1 =>
    cases h
    refine ⟨rs1 != 0, fun old => csrClearBits old (xRead s rs1), rfl, fun old => ?_⟩
    by_cases h0 : rs1 = 0 <;> simp [csrPresentedWrite, csrClearBits, h0]
  | csrrwi _ _ zimm =>
    cases h
    exact ⟨true, fun _ => zimmWord zimm, rfl, fun _ => by simp [csrPresentedWrite, zimmWord]⟩
  | csrrsi _ _ zimm =>
    cases h
    refine ⟨zimm != 0, fun old => csrSetBits old (zimmWord zimm), rfl, fun old => ?_⟩
    by_cases h0 : zimm = 0 <;> simp [csrPresentedWrite, csrSetBits, zimmWord, h0]
  | csrrci _ _ zimm =>
    cases h
    refine ⟨zimm != 0, fun old => csrClearBits old (zimmWord zimm), rfl, fun old => ?_⟩
    by_cases h0 : zimm = 0 <;> simp [csrPresentedWrite, csrClearBits, zimmWord, h0]

/-- What `execCsr` does in every state, in the driver's terms: both ticks answer, and between them `x[rd]` takes the old
value. -/
theorem execCsr_run (rd : Nat) (csr : CsrAddr) (we : Bool) (new : Word → Word) (s : State) :
    ∃ r r₂ t, execCsr rd csr we new s = .next t ∧
      CsrRun s rd csr we (new (csrRead s.params s.bank csr)) r r₂ t := by
  obtain ⟨r, r₂, hr, hold, hr₂, hnext⟩ := execCsr_next rd csr we new s
  rw [hold] at hr₂ hnext
  refine ⟨r, r₂, _, hnext, ?_⟩
  have hread : ∀ q, xRead (s.afterCsrRead rd csr r) q =
      xRead (xWrite s rd (csrRead s.params s.bank csr)) q := by
    rw [← hold]; exact xRead_congr _ _ rfl
  exact
    { readTick := hr
      writeTick := hr₂
      wroteRd := ⟨fun q hq => (hread q).trans (xRead_xWrite s rd q _ hq), rfl, fun _ => rfl⟩
      otherRegisters := fun q hq => (hread q).trans (xRead_xWrite_ne s rd q _ hq)
      bank := rfl
      priv := rfl
      pc := rfl
      env := rfl
      outs := rfl }

/-- What a CSR instruction does in every state, its write tick presenting the write of R232 to R237. -/
theorem exec_csr_run (i : Instr) (rd : Nat) (csr : CsrAddr) (h : csrOperands i = some (rd, csr)) (s : State) :
    ∃ we d r r₂ t, exec i s = .next t ∧ CsrRun s rd csr we d r r₂ t ∧
      ordinaryWrite (csrWriteInputs (envAfter s.env) s.pc csr we d) =
        csrPresentedWrite s (csrRead s.params s.bank csr) i := by
  obtain ⟨we, new, hexec, hwrite⟩ := exec_csr_presents i rd csr h s
  obtain ⟨r, r₂, t, hnext, hrun⟩ := execCsr_run rd csr we new s
  exact ⟨we, _, r, r₂, t, hexec.trans hnext, hrun, (hwrite _).symm⟩

section
variable {s t : State} {rd : Nat} {csr : CsrAddr} {we : Bool} {d : Word} {r r₂ : TickResult}

/-- Two ticks advance the counter by two (R175). -/
theorem CsrRun.cyc (h : CsrRun s rd csr we d r r₂ t) : t.bank.cyc = s.bank.cyc + 2 := by
  rw [h.bank, tick_cyc _ _ _ _ _ h.writeTick, tick_cyc _ _ _ _ _ h.readTick, BitVec.add_assoc]
  rfl

/-- Neither tick changes what an address reads as where trap logic never writes and the CSR does not share storage. -/
theorem CsrRun.csrRead_untrapped (h : CsrRun s rd csr we d r r₂ t) (a : CsrAddr) (ha : a ∈ untrappedCsrs)
    (hshare : shareStorage csr a = false) : csrRead s.params t.bank a = csrRead s.params s.bank a :=
  calc csrRead s.params t.bank a = csrRead s.params r₂.bank a := by rw [h.bank]
    _ = csrRead s.params r.bank a := tick_csrRead_untrapped _ _ _ _ _ h.writeTick a ha (.inr hshare)
    _ = csrRead s.params s.bank a := tick_csrRead_untrapped _ _ _ _ _ h.readTick a ha (.inl rfl)

end

/-- Settles O49: both ticks answer, and each keeps what the other parts of the run do not name. -/
theorem csrInstructionFrame : Obligations.CsrInstructionFrame := by
  intro s i rd csr hi
  obtain ⟨we, d, r, r₂, t, hnext, hrun, -⟩ := exec_csr_run i rd csr hi s
  obtain ⟨-, hparams, hmem⟩ := hrun.wroteRd
  exact ⟨t, hnext, hrun.wroteRd, hrun.otherRegisters, rfl, hparams, hmem, by rw [hrun.outs]; rfl, hrun.cyc, hrun.env,
    hrun.csrRead_untrapped⟩

/-! ### Quiet ticks -/

/-- In a quiet tick with the identity `NONE` nothing is decided (R360). -/
theorem arbitrate_of_quiet (p : Params) (priv : Priv) (snap : Bank) (inp : TickInputs) (hq : quiet inp = true)
    (hk : kindOfBits inp.instrKind = .none) : arbitrate p priv snap inp = .noTrap := by
  obtain ⟨hflag, hirq, -⟩ := (quiet_iff inp).mp hq
  have hkind : noEnvKind p inp = true := (noEnvKind_iff p inp).mpr (.inr (by simp [hk]))
  rw [arbitrate_of_no_trap_condition p priv snap inp hflag hkind (noInterrupt_of_irq_zero p priv snap inp hirq)]
  simp [returnDecision, hk]

/-- A quiet tick with the identity `NONE` commits its ordinary write and lets the driver go on (R163, R231). -/
theorem tick_of_quiet (p : Params) (b : Bank) (priv : Priv) (inp : TickInputs) (r : TickResult)
    (h : tick p b priv inp = .ok r) (hq : quiet inp = true) (hk : kindOfBits inp.instrKind = .none) :
    r.priv = priv ∧ r.bank = { applyOrdinary p b (ordinaryWrite inp) with cyc := b.cyc + 1 } ∧
      ∀ fallthrough, nextFetch fallthrough inp r.out = fallthrough := by
  obtain ⟨-, -, hjump⟩ := (quiet_iff inp).mp hq
  obtain ⟨hredirect, hpriv, hbank⟩ := tick_noTrap p b priv inp r h (arbitrate_of_quiet p priv _ inp hq hk)
  exact ⟨hpriv, hbank, fun fallthrough => by simp [nextFetch_of_no_redirect _ _ _ hredirect, hjump]⟩

section
variable {s t : State} {rd : Nat} {csr : CsrAddr} {we : Bool} {d : Word} {r r₂ : TickResult}

/-- A quiet read tick changes nothing of the block but the counter, and the driver falls through. -/
theorem CsrRun.readTick_of_quiet (h : CsrRun s rd csr we d r r₂ t) (hq : quiet (envInputs s.env) = true) :
    r.priv = s.priv ∧ r.bank = { s.bank with cyc := s.bank.cyc + 1 } ∧
      nextFetch (s.pc + 4) (csrReadInputs s.env s.pc csr) r.out = s.pc + 4 := by
  obtain ⟨hpriv, hbank, hpc⟩ := tick_of_quiet _ _ _ _ _ h.readTick hq rfl
  exact ⟨hpriv, hbank, hpc _⟩

/-- After a quiet read tick the write tick's snapshot is the written bank, with the counter one ahead. -/
theorem CsrRun.writeSnapshot_of_quiet (h : CsrRun s rd csr we d r r₂ t) (hq : quiet (envInputs s.env) = true) :
    snapshot s.params r.bank (csrWriteInputs (envAfter s.env) s.pc csr we d) =
      { applyOrdinary s.params s.bank (ordinaryWrite (csrWriteInputs (envAfter s.env) s.pc csr we d)) with
        cyc := s.bank.cyc + 1 } := by
  obtain ⟨-, hbank, -⟩ := h.readTick_of_quiet hq
  rw [hbank]
  exact applyOrdinary_with_cyc _ _ _ _

end

/-- A CSR instruction in a quiet environment: `x[rd]` takes the old value, the presented write is committed, and the
driver goes on at the next word. -/
theorem exec_csr_of_quiet (i : Instr) (rd : Nat) (csr : CsrAddr) (hi : csrOperands i = some (rd, csr)) (s : State)
    (hq : quietCsr s = true) :
    ∃ t, exec i s = .next t ∧ DriverWroteRd rd (csrRead s.params s.bank csr) s t ∧
      t.bank = { applyOrdinary s.params s.bank (csrPresentedWrite s (csrRead s.params s.bank csr) i) with
        cyc := s.bank.cyc + 2 } ∧
      t.priv = s.priv ∧ t.pc = s.pc + 4 ∧ t.env = envAfter (envAfter s.env) ∧ t.outs.length = 2 := by
  obtain ⟨hq₁, hq₂⟩ : quiet (envInputs s.env) = true ∧ quiet (envInputs (envAfter s.env)) = true := by
    simpa [quietCsr] using hq
  obtain ⟨we, d, r, r₂, t, hnext, hrun, hwrite⟩ := exec_csr_run i rd csr hi s
  obtain ⟨hpriv₁, -, hpc₁⟩ := hrun.readTick_of_quiet hq₁
  obtain ⟨hpriv₂, hbank₂, hpc₂⟩ := tick_of_quiet _ _ _ _ _ hrun.writeTick hq₂ rfl
  have hsnap := hrun.writeSnapshot_of_quiet hq₁
  have hbank : t.bank = { applyOrdinary s.params s.bank (csrPresentedWrite s (csrRead s.params s.bank csr) i) with
      cyc := t.bank.cyc } := by
    rw [snapshot, hwrite] at hsnap
    rw [hrun.bank, hbank₂, hwrite, hsnap]
  rw [hrun.cyc] at hbank
  exact ⟨t, hnext, hrun.wroteRd, hbank, hrun.priv.trans (hpriv₂.trans hpriv₁),
    hrun.pc.trans ((hpc₂ _).trans hpc₁), hrun.env, by rw [hrun.outs]; rfl⟩

/-- Settles O43: the presented write is that of `x[rs1]`. -/
theorem csrrwReadsThenWrites : Obligations.CsrrwReadsThenWrites := by
  intro s rd csr rs1 hq
  exact exec_csr_of_quiet (.csrrw rd csr rs1) rd csr rfl s hq

/-- Settles O44: the presented write sets the bits of `x[rs1]`, and there is none where `rs1` is `x0`. -/
theorem csrrsReadsThenSets : Obligations.CsrrsReadsThenSets := by
  intro s rd csr rs1 hq
  have h := exec_csr_of_quiet (.csrrs rd csr rs1) rd csr rfl s hq
  rwa [csrPresentedWrite, apply_ite (applyOrdinary s.params s.bank)] at h

/-- Settles O45: the presented write clears the bits of `x[rs1]`, and there is none where `rs1` is `x0`. -/
theorem csrrcReadsThenClears : Obligations.CsrrcReadsThenClears := by
  intro s rd csr rs1 hq
  have h := exec_csr_of_quiet (.csrrc rd csr rs1) rd csr rfl s hq
  rwa [csrPresentedWrite, apply_ite (applyOrdinary s.params s.bank)] at h

/-- Settles O46: the presented write is that of the zero-extended immediate. -/
theorem csrrwiReadsThenWrites : Obligations.CsrrwiReadsThenWrites := by
  intro s rd csr zimm hq
  exact exec_csr_of_quiet (.csrrwi rd csr zimm) rd csr rfl s hq

/-- Settles O47: the presented write sets the bits of the immediate, and there is none where it is 0. -/
theorem csrrsiReadsThenSets : Obligations.CsrrsiReadsThenSets := by
  intro s rd csr zimm hq
  have h := exec_csr_of_quiet (.csrrsi rd csr zimm) rd csr rfl s hq
  rwa [csrPresentedWrite, apply_ite (applyOrdinary s.params s.bank)] at h

/-- Settles O48: the presented write clears the bits of the immediate, and there is none where it is 0. -/
theorem csrrciReadsThenClears : Obligations.CsrrciReadsThenClears := by
  intro s rd csr zimm hq
  have h := exec_csr_of_quiet (.csrrci rd csr zimm) rd csr rfl s hq
  rwa [csrPresentedWrite, apply_ite (applyOrdinary s.params s.bank)] at h

/-! ### A trap in the write tick -/

/-- Only the SRET identity is decided as a return from supervisor trap (R300). -/
theorem arbitrate_sret (p : Params) (priv : Priv) (snap : Bank) (inp : TickInputs)
    (h : arbitrate p priv snap inp = .sret) : kindOfBits inp.instrKind = .sret := by
  unfold arbitrate at h
  repeat' split at h
  all_goals cases h
  all_goals exact eq_of_beq ‹_›

/-- What a committed trap entry leaves of the direct-write set from the snapshot, whichever mode it enters (R165). -/
theorem commit_takeTrap_leaves (p : Params) (b : Bank) (priv : Priv) (inp : TickInputs) (target : Priv) (snap : Bank)
    (intr : Bool) (code : Code) (epc tval : Word) :
    TrapLeavesFromSnapshot priv snap
        (commit p b priv inp (takeTrap target priv snap intr code epc tval)).bank
        (commit p b priv inp (takeTrap target priv snap intr code epc tval)).priv ∧
      (commit p b priv inp (takeTrap target priv snap intr code epc tval)).priv ≠ .user := by
  cases target with
  | user | machine =>
    obtain ⟨-, -, -, -, hstatus, hsepc, hscause, hstval, -⟩ :=
      commit_trapEnterM p b priv inp snap intr code epc tval
    exact ⟨⟨fun _ => ⟨hstatus, hsepc, hscause, hstval⟩, nofun⟩, nofun⟩
  | supervisor =>
    obtain ⟨-, -, -, -, hstatus, hmepc, hmcause, hmtval, -⟩ :=
      commit_trapEnterS p b priv inp snap intr code epc tval
    exact ⟨⟨nofun, fun _ => ⟨hstatus, hmepc, hmcause, hmtval⟩⟩, nofun⟩

/-- A tick with the identity `NONE` that redirects took a trap, as neither return can be its decision. -/
theorem tick_redirect_leaves (p : Params) (b : Bank) (priv : Priv) (inp : TickInputs) (r : TickResult)
    (h : tick p b priv inp = .ok r) (hk : kindOfBits inp.instrKind = .none) (hredirect : r.out.redirectValid = true) :
    TrapLeavesFromSnapshot priv (snapshot p b inp) r.bank r.priv ∧ r.priv ≠ .user := by
  obtain ⟨e, he, rfl⟩ := tick_ok _ _ _ _ _ h
  obtain ⟨hasserts, -⟩ := effect_asserts _ _ _ e he
  cases hdec : arbitrate p priv (snapshot p b inp) inp with
  | excTrap c epc tval => rw [hdec] at he; cases he; exact commit_takeTrap_leaves ..
  | intTrap c epc => rw [hdec] at he; cases he; exact commit_takeTrap_leaves ..
  | mret => rw [arbitrate_mret _ _ _ _ hdec] at hk; cases hk
  | sret => rw [arbitrate_sret _ _ _ _ hdec] at hk; cases hk
  | noTrap => exact absurd hdec (hasserts.mp hredirect)

/-- Settles O50: the write tick starts from the stored bank, so its trap keeps the registers outside the direct-write set
and takes the others from the written snapshot. -/
theorem csrWriteTickTrapDropsTheWrite : Obligations.CsrWriteTickTrapDropsTheWrite := by
  intro s t i rd csr o hi hdrop hq hexec hlast hredirect
  obtain ⟨we, d, r, r₂, t', hnext, hrun, hwrite⟩ := exec_csr_run i rd csr hi s
  obtain rfl : t' = t := by rw [hexec] at hnext; cases hnext; rfl
  obtain rfl : r₂.out = o := by rw [hrun.outs] at hlast; cases hlast; rfl
  obtain ⟨hpriv₁, hbank₁, -⟩ := hrun.readTick_of_quiet hq
  obtain ⟨hleaves, huser⟩ := tick_redirect_leaves _ _ _ _ _ hrun.writeTick rfl hredirect
  have houtside := tick_outside _ _ _ _ _ hrun.writeTick
  rw [if_pos ⟨hredirect, hdrop⟩, hbank₁] at houtside
  rw [hrun.writeSnapshot_of_quiet hq, hwrite, hpriv₁] at hleaves
  rw [hrun.bank, hrun.priv]
  exact ⟨hrun.wroteRd, houtside, hleaves, huser, hrun.pc.trans (nextFetch_of_redirect _ _ _ hredirect)⟩

end Sys2Proof.Machine
end

section
/-!
PROOF. The decoder, the program store and the step (O51, O56, O59, O60): the decoder on the words of the encoder, the
program store on bytes just placed, and how many ticks a step takes.
-/

namespace Sys2Proof

/-! ### The fields of an assembled word -/

section
variable (csr : BitVec 12) (rs1 : BitVec 5) (funct3 : BitVec 3) (rd : BitVec 5)

@[simp] theorem opcodeField_systemWord : opcodeField (systemWord csr rs1 funct3 rd) = 0x73 :=
  BitVec.extractLsb'_append_eq_right (a := csr ++ rs1 ++ funct3 ++ rd)

/-- The fields above the opcode are those of the 25 bits above it. -/
theorem extract_systemWord (start len : Nat) : (systemWord csr rs1 funct3 rd).extractLsb' (7 + start) len =
    (csr ++ rs1 ++ funct3 ++ rd).extractLsb' start len := by
  rw [systemWord, BitVec.extractLsb'_append_eq_of_le (v := 25) (w := 7) (by omega), Nat.add_sub_cancel_left]

@[simp] theorem rdField_systemWord : rdField (systemWord csr rs1 funct3 rd) = rd.toNat :=
  congrArg BitVec.toNat ((extract_systemWord csr rs1 funct3 rd 0 5).trans BitVec.extractLsb'_append_eq_right)

@[simp] theorem funct3Field_systemWord : funct3Field (systemWord csr rs1 funct3 rd) = funct3 := by
  refine (extract_systemWord csr rs1 funct3 rd 5 3).trans ?_
  rw [BitVec.extractLsb'_append_eq_of_le (v := 20) (w := 5) (by omega)]
  exact BitVec.extractLsb'_append_eq_right

@[simp] theorem zimmField_systemWord : zimmField (systemWord csr rs1 funct3 rd) = rs1 := by
  refine (extract_systemWord csr rs1 funct3 rd 8 5).trans ?_
  rw [BitVec.extractLsb'_append_eq_of_le (v := 20) (w := 5) (by omega),
    BitVec.extractLsb'_append_eq_of_le (v := 17) (w := 3) (by omega)]
  exact BitVec.extractLsb'_append_eq_right

@[simp] theorem rs1Field_systemWord : rs1Field (systemWord csr rs1 funct3 rd) = rs1.toNat :=
  congrArg BitVec.toNat (zimmField_systemWord csr rs1 funct3 rd)

@[simp] theorem csrField_systemWord : csrField (systemWord csr rs1 funct3 rd) = csr := by
  refine (extract_systemWord csr rs1 funct3 rd 13 12).trans ?_
  rw [BitVec.extractLsb'_append_eq_of_le (v := 20) (w := 5) (by omega),
    BitVec.extractLsb'_append_eq_of_le (v := 17) (w := 3) (by omega)]
  exact BitVec.extractLsb'_append_eq_left

end

/-! ### The decoder -/

/-- A register number below 32 is what its five-bit field holds. -/
theorem toNat_ofNat_of_regOk (n : Nat) (h : regOk n = true) : (BitVec.ofNat 5 n).toNat = n :=
  Nat.mod_eq_of_lt (of_decide_eq_true h)

/-- The decoder gives back the well-formed instruction whose word it is given (R112). -/
theorem decodeWord_encode (i : Instr) (h : i.wf = true) : decodeWord (encode i) = .ok i := by
  cases i with
  | ecall | ebreak | sret | mret => decide
  | csrrw rd _ rs1 | csrrs rd _ rs1 | csrrc rd _ rs1 =>
    obtain ⟨hrd, hrs1⟩ : regOk rd = true ∧ regOk rs1 = true := by simpa [Instr.wf] using h
    simp [encode, decodeWord, toNat_ofNat_of_regOk, hrd, hrs1, -BitVec.toNat_ofNat]
  | csrrwi rd _ _ | csrrsi rd _ _ | csrrci rd _ _ =>
    have hrd : regOk rd = true := h
    simp [encode, decodeWord, toNat_ofNat_of_regOk, hrd, -BitVec.toNat_ofNat]

/-- The four bytes of a word, put together again, are that word (R81). -/
theorem wordOfBytes_bytes (w : Word) :
    wordOfBytes (w.extractLsb' 0 8) (w.extractLsb' 8 8) (w.extractLsb' 16 8) (w.extractLsb' 24 8) = w := by
  rw [wordOfBytes, BitVec.extractLsb'_append_extractLsb'_eq_extractLsb' (by rfl),
    BitVec.extractLsb'_append_extractLsb'_eq_extractLsb' (by rfl),
    BitVec.extractLsb'_append_extractLsb'_eq_extractLsb' (by rfl)]
  exact BitVec.extractLsb'_eq_self

/-- The bytes of a well-formed instruction decode to it, and what stands after them is left over. -/
theorem decode_encodeBytes (i : Instr) (rest : List Byte) (h : i.wf = true) :
    decode (encodeBytes i ++ rest) = .ok (i, rest) := by
  simp [encodeBytes, bytesOfWord, decode, wordOfBytes_bytes, decodeWord_encode i h]

@[simp] theorem regOk_rdField (w : Word) : regOk (rdField w) = true := decide_eq_true (BitVec.isLt _)
@[simp] theorem regOk_rs1Field (w : Word) : regOk (rs1Field w) = true := decide_eq_true (BitVec.isLt _)

/-- The privileged group holds well-formed instructions, as none of them has a register operand. -/
theorem decodePrivileged_wf (funct12 : BitVec 12) (i : Instr) (h : decodePrivileged funct12 = .ok i) :
    i.wf = true := by
  unfold decodePrivileged at h
  split_ifs at h <;> cases h <;> rfl

/-- Whatever the decoder accepts is well-formed: its register numbers are five-bit fields (R110). -/
theorem decodeWord_wf (w : Word) (i : Instr) (h : decodeWord w = .ok i) : i.wf = true := by
  unfold decodeWord at h
  split_ifs at h
  · exact decodePrivileged_wf _ i h
  all_goals cases h; simp [Instr.wf]

/-- What is decoded from bytes is well-formed. -/
theorem decode_wf (bytes rest : List Byte) (i : Instr) (h : decode bytes = .ok (i, rest)) : i.wf = true := by
  unfold decode at h
  split at h
  · split at h
    · rename_i hi
      cases h
      exact decodeWord_wf _ i hi
    · cases h
  · cases h

/-- Settles O59: the decoder evaluates each of the written-out words. -/
theorem writtenOutWordsDecode : Obligations.WrittenOutWordsDecode := by
  unfold Obligations.WrittenOutWordsDecode
  decide

end Sys2Proof

namespace Sys2Proof.Machine

/-! ### A step of a decodable word -/

/-- Settles O51: the step is `runNext`, which runs what the bytes decode to. -/
theorem stepRunsDecodedInstruction : Obligations.StepRunsDecodedInstruction := by
  intro s bytes rest i henv hfetch hdecode
  exact ⟨(step_of_not_noInstruction s henv).trans (runNext_of_decode_ok s bytes rest i hfetch hdecode),
    decode_wf bytes rest i hdecode⟩

/-! ### The program store, on bytes just placed -/

/-- Storing several bytes leaves every address that none of them is stored at as it was. -/
theorem Memory.read_writeBytes_of_ne (bs : List Byte) (m : List Host.Cell) (a x : Word)
    (h : ∀ k < bs.length, a + BitVec.ofNat 32 k ≠ x) :
    Memory.read (Memory.writeBytes m a bs) x.toNat = Memory.read m x.toNat := by
  induction bs generalizing m a with
  | nil => rfl
  | cons b bs ih =>
    have hfirst : x.toNat ≠ a.toNat := fun he =>
      h 0 (Nat.zero_lt_succ _) (by rw [BitVec.eq_of_toNat_eq he]; exact BitVec.add_zero a)
    have hrest : ∀ k < bs.length, a + 1 + BitVec.ofNat 32 k ≠ x := fun k hk => by
      have hadd : a + 1 + BitVec.ofNat 32 k = a + BitVec.ofNat 32 (k + 1) := by
        rw [BitVec.add_assoc, Nat.add_comm k 1, BitVec.ofNat_add]
        rfl
      rw [hadd]
      exact h (k + 1) (Nat.succ_lt_succ hk)
    rw [Memory.writeBytes, ih _ _ hrest, Memory.read_write_ne _ _ _ _ hfirst]

/-- Reading back bytes just stored, at every address and across the top of the address space. -/
theorem Memory.readBytes_writeBytes (bs : List Byte) (m : List Host.Cell) (a : Word) (hlen : bs.length ≤ 2 ^ 32) :
    Memory.readBytes (Memory.writeBytes m a bs) a bs.length = some bs := by
  induction bs generalizing m a with
  | nil => rfl
  | cons b bs ih =>
    rw [List.length_cons] at hlen
    have hkeep : ∀ k < bs.length, a + 1 + BitVec.ofNat 32 k ≠ a := by
      intro k hk
      bv_omega
    have hfirst : Memory.read (Memory.writeBytes (Memory.write m a.toNat b) (a + 1) bs) a.toNat = some b := by
      rw [Memory.read_writeBytes_of_ne bs _ (a + 1) a hkeep, Memory.read_write_same]
    have hrest := ih (Memory.write m a.toNat b) (a + 1) (by omega)
    simp only [Memory.writeBytes, List.length_cons, Memory.readBytes, hfirst, hrest]

/-- The driver fetches the four bytes of a word placed at `pc`. -/
theorem fetch_withFetchWord (s : State) (w : Word) : fetch (s.withFetchWord 32 w.toNat) = .ok (bytesOfWord w) := by
  have hword : BitVec.ofNat 32 (w.toNat % 2 ^ 32) = w := by
    rw [Nat.mod_eq_of_lt w.isLt, BitVec.ofNat_toNat, BitVec.setWidth_eq]
  have hread : Memory.readBytes (Memory.writeBytes s.mem s.pc (bytesOfWord w)) s.pc 4 = some (bytesOfWord w) :=
    Memory.readBytes_writeBytes (bytesOfWord w) s.mem s.pc (by simp [bytesOfWord])
  have hmem : (s.withFetchWord 32 w.toNat).mem = Memory.writeBytes s.mem s.pc (bytesOfWord w) := by
    rw [State.withFetchWord, hword]
  rw [fetch, hmem, State.withFetchWord_pc, hread]

/-- Once the ticks without an instruction are left out, the next tick is none of them. -/
theorem dropIdleTicks_ne (env : List EnvTick) (inp : TickInputs) (rest : List EnvTick) :
    dropIdleTicks env ≠ .noInstruction inp :: rest := by
  induction env with
  | nil => simp [dropIdleTicks]
  | cons e env ih =>
    cases e with
    | noInstruction _ => exact ih
    | beside _ => simp [dropIdleTicks]

/-- Settles O60: the fetch reads the bytes just placed, which decode to the instruction. -/
theorem placedInstructionRuns : Obligations.PlacedInstructionRuns := by
  intro s i hi
  have hfetch := fetch_withFetchWord s (encode i)
  have hdecode : decode (encodeBytes i) = .ok (i, []) := by simpa using decode_encodeBytes i [] hi
  obtain ⟨hstep, -⟩ := stepRunsDecodedInstruction _ _ _ i (dropIdleTicks_ne s.env) hfetch hdecode
  exact ⟨hfetch, hstep⟩

/-! ### The ticks of a step -/

/-- What runs at `pc`, where it answers, is an instruction. -/
theorem runNext_next (s t : State) (h : runNext s = .next t) : ∃ i, exec i s = .next t := by
  unfold runNext at h
  split at h
  · cases h
  · split at h
    · cases h
    · exact ⟨_, h⟩

/-- A control instruction is one tick and a CSR instruction two, and the counter counts them (R175, R231). -/
theorem exec_ticks (i : Instr) (s t : State) (h : exec i s = .next t) :
    (t.outs.length = 1 ∨ t.outs.length = 2) ∧ t.bank.cyc = s.bank.cyc + BitVec.ofNat 64 t.outs.length := by
  rcases controlKind_or_csrOperands i with ⟨k, hk⟩ | ⟨rd, csr, hi⟩
  · rw [exec_of_controlKind i k hk s] at h
    obtain ⟨-, -, hlen, hcyc, -⟩ := execControl_frame k s t h
    rw [hlen]
    exact ⟨.inl rfl, hcyc⟩
  · obtain ⟨we, d, r, r₂, t', hnext, hrun, -⟩ := exec_csr_run i rd csr hi s
    obtain rfl : t' = t := by rw [h] at hnext; cases hnext; rfl
    rw [hrun.outs]
    exact ⟨.inr rfl, hrun.cyc⟩

/-- Settles O56: a tick without an instruction is one tick, and every other step is an instruction. -/
theorem stepCountsItsTicks : Obligations.StepCountsItsTicks := by
  intro s t h
  rcases step_cases s with ⟨inp, rest, -, hs⟩ | ⟨-, hs⟩
  · obtain ⟨r, hr, rfl⟩ := idleTick_next inp rest s t (hs ▸ h)
    exact ⟨.inl rfl, tick_cyc _ _ _ _ r hr⟩
  · obtain ⟨i, hi⟩ := runNext_next s t (hs ▸ h)
    exact exec_ticks i s t hi

end Sys2Proof.Machine
end

section
/-!
PROOF. The order of the exception conditions (O13, O14): what each condition of R300 decides where none before it holds,
and what a tick depends on beside its decision.
-/

namespace Sys2Proof.Machine

/-! ### The exception conditions of R300, each where none before it holds -/

section
variable (p : Params) (priv : Priv) (snap : Bank) (inp : TickInputs)

/-- Condition 1, the flag of the decode stage (R301). -/
theorem arbitrate_of_idExc (hid : inp.idExcValid = true) :
    arbitrate p priv snap inp = .excTrap inp.idExcCode inp.idPc 0 := by
  simp [arbitrate, hid]

/-- Condition 1, the ECALL identity (R202, R301). -/
theorem arbitrate_of_ecall (hid : inp.idExcValid = false) (hp : p.envFromIdentity = true)
    (hk : kindOfBits inp.instrKind = .ecall) :
    arbitrate p priv snap inp = .excTrap (ecallCode priv) inp.idPc 0 := by
  simp [arbitrate, hid, hp, hk]

/-- Condition 1, the EBREAK identity (R202, R301). -/
theorem arbitrate_of_ebreak (hid : inp.idExcValid = false) (hp : p.envFromIdentity = true)
    (hk : kindOfBits inp.instrKind = .ebreak) :
    arbitrate p priv snap inp = .excTrap breakpointCode inp.idPc 0 := by
  simp [arbitrate, hid, hp, hk]

/-- An identity that raises no exception meets neither identity test of the arbitration (R202). -/
theorem identityTests_of_noEnvKind (hkind : noEnvKind p inp = true) :
    (p.envFromIdentity && kindOfBits inp.instrKind == .ecall) = false ∧
      (p.envFromIdentity && kindOfBits inp.instrKind == .ebreak) = false := by
  rcases (noEnvKind_iff p inp).mp hkind with h | ⟨hecall, hebreak⟩
  · simp [h]
  · simp [hecall, hebreak]

/-- Condition 2, the memory stage (R302). -/
theorem arbitrate_of_memExc (hid : inp.idExcValid = false) (hkind : noEnvKind p inp = true)
    (hmem : inp.memExcValid = true) : arbitrate p priv snap inp = .excTrap inp.memExcCode inp.memPc 0 := by
  obtain ⟨hecall, hebreak⟩ := identityTests_of_noEnvKind p inp hkind
  simp [arbitrate, hid, hecall, hebreak, hmem]

/-- Condition 3, the translation stage (R303). -/
theorem arbitrate_of_mmuExc (hid : inp.idExcValid = false) (hkind : noEnvKind p inp = true)
    (hmem : inp.memExcValid = false) (hmmu : inp.mmuExcValid = true) :
    arbitrate p priv snap inp = .excTrap inp.mmuExcCode inp.mmuPc inp.mmuTval := by
  obtain ⟨hecall, hebreak⟩ := identityTests_of_noEnvKind p inp hkind
  simp [arbitrate, hid, hecall, hebreak, hmem, hmmu]

/-- An identity that does raise an exception is ECALL or EBREAK, and the parameter has the block heed it (R202). -/
theorem noEnvKind_eq_false_iff : noEnvKind p inp = false ↔
    p.envFromIdentity = true ∧ (kindOfBits inp.instrKind = .ecall ∨ kindOfBits inp.instrKind = .ebreak) := by
  simp [noEnvKind, Classical.or_iff_not_imp_left]

end

/-! ### The trap value -/

/-- The one exception among the returns, the SRET that TSR blocks, has trap value 0 (R211). -/
theorem returnDecision_tval (p : Params) (priv : Priv) (snap : Bank) (inp : TickInputs) (c : Code) (epc tval : Word)
    (h : returnDecision p priv snap inp = .excTrap c epc tval) : tval = 0 := by
  unfold returnDecision at h
  split_ifs at h
  cases h
  rfl

/-- Only the translation stage gives a trap value, every other exception has 0 (R301 to R303). -/
theorem arbitrate_tval (p : Params) (priv : Priv) (snap : Bank) (inp : TickInputs) (c : Code) (epc tval : Word)
    (h : arbitrate p priv snap inp = .excTrap c epc tval) :
    tval = 0 ∨ inp.mmuExcValid = true ∧ tval = inp.mmuTval := by
  cases hid : inp.idExcValid with
  | true => rw [arbitrate_of_idExc p priv snap inp hid] at h; cases h; exact .inl rfl
  | false =>
  cases hkind : noEnvKind p inp with
  | false =>
    obtain ⟨hp, hk | hk⟩ := (noEnvKind_eq_false_iff p inp).mp hkind
    · rw [arbitrate_of_ecall p priv snap inp hid hp hk] at h; cases h; exact .inl rfl
    · rw [arbitrate_of_ebreak p priv snap inp hid hp hk] at h; cases h; exact .inl rfl
  | true =>
  cases hmem : inp.memExcValid with
  | true => rw [arbitrate_of_memExc p priv snap inp hid hkind hmem] at h; cases h; exact .inl rfl
  | false =>
  cases hmmu : inp.mmuExcValid with
  | true => rw [arbitrate_of_mmuExc p priv snap inp hid hkind hmem hmmu] at h; cases h; exact .inr ⟨rfl, rfl⟩
  | false =>
  have hflag : noFlag inp = true := (noFlag_iff inp).mpr ⟨hid, hmem, hmmu⟩
  cases hint : noInterrupt p priv snap inp with
  | true =>
    rw [arbitrate_of_no_trap_condition p priv snap inp hflag hkind hint] at h
    exact .inl (returnDecision_tval p priv snap inp c epc tval h)
  | false => rw [arbitrate_of_interrupt p priv snap inp hflag hkind hint] at h; cases h

/-- Settles O13: the first four clauses are the conditions in their order, the last is where a trap value comes from. -/
theorem exceptionConditionsInOrder : Obligations.ExceptionConditionsInOrder := by
  intro p priv snap inp
  refine ⟨arbitrate_of_idExc p priv snap inp, fun hid hp hk => ?_, arbitrate_of_memExc p priv snap inp,
    arbitrate_of_mmuExc p priv snap inp, fun c epc tval h hne => ?_⟩
  · rcases hk with hk | hk
    · exact ⟨_, arbitrate_of_ecall p priv snap inp hid hp hk⟩
    · exact ⟨_, arbitrate_of_ebreak p priv snap inp hid hp hk⟩
  · exact (arbitrate_tval p priv snap inp c epc tval h).resolve_left hne

/-! ### Signals that a tick ignores -/

/-- Beside its decision a tick depends on its inputs only through the CSR ports (R150). -/
theorem tick_eq_of_arbitrate_eq (p : Params) (b : Bank) (priv : Priv) (inp inp' : TickInputs)
    (hwrite : ordinaryWrite inp' = ordinaryWrite inp) (hread : inp'.csrRAddr = inp.csrRAddr)
    (hdec : arbitrate p priv (snapshot p b inp) inp' = arbitrate p priv (snapshot p b inp) inp) :
    tick p b priv inp' = tick p b priv inp := by
  have hsnap : snapshot p b inp' = snapshot p b inp := congrArg (applyOrdinary p b) hwrite
  have hbank : commitBank p b inp' = commitBank p b inp := by
    funext dw
    cases dw <;> simp only [commitBank, hsnap]
  have hcommit : commit p b priv inp' = commit p b priv inp := by
    funext e
    simp only [commit, tickOutputs, hwrite, hsnap, hread, hbank]
  simp only [tick, hsnap, hdec, hcommit]

/-- Settles O14: at each of the five levels the replaced inputs and the given ones meet the same condition of R300,
which decides the same for both. -/
theorem lowerPrioritySignalsIgnored : Obligations.LowerPrioritySignalsIgnored := by
  intro p b priv inp other
  refine ⟨fun hid => ?decode, fun hid hp hk => ?identity, fun hid hkind hother hmem => ?memory,
    fun hid hkind hother hmem hmmu => ?translation, fun hflag hkind hother hint => ?interrupt⟩
  all_goals refine tick_eq_of_arbitrate_eq p b priv inp _ rfl rfl ?_
  case decode => rw [arbitrate_of_idExc _ _ _ inp hid]; exact arbitrate_of_idExc _ _ _ _ hid
  case identity =>
    rcases hk with hk | hk
    · rw [arbitrate_of_ecall _ _ _ inp hid hp hk]; exact arbitrate_of_ecall _ _ _ _ hid hp hk
    · rw [arbitrate_of_ebreak _ _ _ inp hid hp hk]; exact arbitrate_of_ebreak _ _ _ _ hid hp hk
  case memory =>
    rw [arbitrate_of_memExc _ _ _ inp hid hkind hmem]; exact arbitrate_of_memExc _ _ _ _ hid hother hmem
  case translation =>
    rw [arbitrate_of_mmuExc _ _ _ inp hid hkind hmem hmmu]; exact arbitrate_of_mmuExc _ _ _ _ hid hother hmem hmmu
  case interrupt =>
    rw [arbitrate_of_interrupt _ _ _ inp hflag hkind hint]; exact arbitrate_of_interrupt _ _ _ _ hflag hother hint

end Sys2Proof.Machine
end

section
/-!
PROOF. Taking a trap (O18, O19, O21, O22, O25): the layout of the cause word, the handler address, what a tick that
decides on a trap commits, and where its redirect goes.
-/

namespace Sys2Proof.Machine

/-! ### The cause word -/

/-- Settles O22: the flag stands above the 31 bits of the code. -/
theorem causeWordLayout : Obligations.CauseWordLayout := by
  intro intr code
  refine ⟨?_, BitVec.extractLsb'_append_eq_right, ?_⟩
  · rw [causeWord, BitVec.getLsbD_append]
    simp
  · rw [causeWord, BitVec.toNat_append]
    simp

/-! ### The handler address -/

/-- Clearing bits 1:0 rounds down to a multiple of four (R38). -/
theorem tvecBase_toNat (tvec : Word) : (tvecBase tvec).toNat = 4 * (tvec.toNat / 4) := by
  have hshift : tvecBase tvec = tvec >>> 2 <<< 2 :=
    (BitVec.shiftLeft_ushiftRight (x := tvec) (n := 2)).symm
  rw [hshift]
  bv_omega

/-- The mode is Vectored where bits 1:0 are `0b01` (R38). -/
theorem tvecVectored_iff (tvec : Word) : tvecVectored tvec = true ↔ tvec.toNat % 4 = 1 := by
  rw [tvecVectored, beq_iff_eq, ← BitVec.toNat_inj, BitVec.extractLsb'_toNat]
  rfl

/-- A vectored interrupt goes to the base plus four times its code, which may wrap. -/
theorem handlerAddress_of_vectored (tvec : Word) (code : Code) (h : tvecVectored tvec = true) :
    handlerAddress tvec true code = tvecBase tvec + (code.setWidth 32 <<< 2) := by
  simp [handlerAddress, h]

/-- Everything else goes to the base. -/
theorem handlerAddress_of_direct (tvec : Word) (intr : Bool) (code : Code)
    (h : intr = false ∨ tvecVectored tvec = false) : handlerAddress tvec intr code = tvecBase tvec := by
  rcases h with h | h <;> simp [handlerAddress, h]

/-- Four times a code, as the handler address adds it. -/
theorem code_shiftLeft_toNat (code : Code) : (code.setWidth 32 <<< 2).toNat = 4 * code.toNat % 2 ^ 32 := by
  bv_omega

/-- Settles O21: the two branches of the handler address, in numbers. -/
theorem handlerAddressByModeAndCause : Obligations.HandlerAddressByModeAndCause := by
  intro tvec intr code
  refine ⟨fun hintr hmode => ?_, fun h => ?_⟩
  · rw [hintr, handlerAddress_of_vectored tvec code ((tvecVectored_iff tvec).mpr hmode), BitVec.toNat_add,
      tvecBase_toNat, code_shiftLeft_toNat, Nat.add_mod_mod]
  · rw [handlerAddress_of_direct tvec intr code, tvecBase_toNat]
    exact h.imp_right fun hmode => Bool.eq_false_iff.mpr (mt (tvecVectored_iff tvec).mp hmode)

/-! ### Taking a trap -/

/-- Only a trap from below Machine enters Supervisor (R304). -/
theorem ne_machine_of_excTarget (priv : Priv) (snap : Bank) (c : Code) (h : excTarget priv snap c = .supervisor) :
    priv ≠ .machine := by
  rintro rfl
  cases h

/-- Only an interrupt from below Machine enters Supervisor (R313). -/
theorem ne_machine_of_intTarget (priv : Priv) (snap : Bank) (c : Code) (h : intTarget priv snap c = .supervisor) :
    priv ≠ .machine := by
  rintro rfl
  cases h

section
variable (p : Params) (b : Bank) (priv : Priv) (inp : TickInputs) (intr : Bool) (code : Code) (epc tval : Word)

/-- A tick whose effect is a trap into Machine takes it (R320). -/
theorem tick_of_takeTrap_machine
    (h : effect (arbitrate p priv (snapshot p b inp) inp) priv (snapshot p b inp) =
      .ok (takeTrap .machine priv (snapshot p b inp) intr code epc tval)) :
    ∃ r, tick p b priv inp = .ok r ∧ r.out.redirectValid = true ∧
      EnteredMachine priv (snapshot p b inp) intr code epc tval r.bank r.priv r.out.redirectTarget :=
  ⟨_, tick_of_effect p b priv inp _ h, rfl, commit_trapEnterM p b priv inp (snapshot p b inp) intr code epc tval⟩

/-- A tick whose effect is a trap into Supervisor takes it (R321). -/
theorem tick_of_takeTrap_supervisor
    (h : effect (arbitrate p priv (snapshot p b inp) inp) priv (snapshot p b inp) =
      .ok (takeTrap .supervisor priv (snapshot p b inp) intr code epc tval)) :
    ∃ r, tick p b priv inp = .ok r ∧ r.out.redirectValid = true ∧
      EnteredSupervisor priv (snapshot p b inp) intr code epc tval r.bank r.priv r.out.redirectTarget :=
  ⟨_, tick_of_effect p b priv inp _ h, rfl, commit_trapEnterS p b priv inp (snapshot p b inp) intr code epc tval⟩

end

/-- Settles O18: the effect of either decision is a trap into its target mode. -/
theorem trapIntoMachine : Obligations.TrapIntoMachine := by
  intro p b priv inp
  refine ⟨fun c epc tval hdec htarget => ?_, fun c epc hdec htarget => ?_⟩
  · exact tick_of_takeTrap_machine p b priv inp false c epc tval (by rw [hdec, ← htarget]; rfl)
  · exact tick_of_takeTrap_machine p b priv inp true c epc 0 (by rw [hdec, ← htarget]; rfl)

/-- Settles O19: the effect of either decision is a trap into its target mode, which at Machine is never Supervisor. -/
theorem trapIntoSupervisor : Obligations.TrapIntoSupervisor := by
  intro p b priv inp
  refine ⟨fun c epc tval hdec htarget => ⟨ne_machine_of_excTarget _ _ _ htarget, ?_⟩,
    fun c epc hdec htarget => ⟨ne_machine_of_intTarget _ _ _ htarget, ?_⟩⟩
  · exact tick_of_takeTrap_supervisor p b priv inp false c epc tval (by rw [hdec, ← htarget]; rfl)
  · exact tick_of_takeTrap_supervisor p b priv inp true c epc 0 (by rw [hdec, ← htarget]; rfl)

/-! ### The redirect -/

/-- The decisions other than `noTrap` are the two traps and the two returns (R300). -/
theorem ne_noTrap_iff (dec : Decision) : dec ≠ .noTrap ↔
    (∃ c epc tval, dec = .excTrap c epc tval) ∨ (∃ c epc, dec = .intTrap c epc) ∨ dec = .mret ∨ dec = .sret := by
  cases dec <;> simp

/-- A tick that answers redirects exactly where its decision is not `noTrap`. -/
theorem tick_redirectValid_iff (p : Params) (b : Bank) (priv : Priv) (inp : TickInputs) (r : TickResult)
    (h : tick p b priv inp = .ok r) :
    r.out.redirectValid = true ↔ arbitrate p priv (snapshot p b inp) inp ≠ .noTrap := by
  obtain ⟨e, he, rfl⟩ := tick_ok _ _ _ _ _ h
  exact (effect_asserts _ _ _ e he).1

/-- A committed trap goes to the handler of the mode that it enters (R320, R321). -/
theorem commit_takeTrap_redirectTarget (p : Params) (b : Bank) (priv : Priv) (inp : TickInputs) (target : Priv)
    (snap : Bank) (intr : Bool) (code : Code) (epc tval : Word) :
    (commit p b priv inp (takeTrap target priv snap intr code epc tval)).out.redirectTarget = handlerAddress
      (if (commit p b priv inp (takeTrap target priv snap intr code epc tval)).priv = .supervisor
        then snap.stvec else snap.mtvec) intr code := by
  cases target <;> rfl

/-- A tick that answers and decides on a return from machine trap goes to the saved address (R205). -/
theorem tick_mret_redirectTarget (p : Params) (b : Bank) (priv : Priv) (inp : TickInputs) (r : TickResult)
    (h : tick p b priv inp = .ok r) (hdec : arbitrate p priv (snapshot p b inp) inp = .mret) :
    r.out.redirectTarget = (snapshot p b inp).mepc := by
  by_cases hmpp : LegalMpp (snapshot p b inp)
  · obtain ⟨r', hr', -, htarget, -⟩ := tick_mret_of_legal p b priv inp hdec hmpp
    rw [hr'] at h
    cases h
    exact htarget
  · rw [tick_mret_of_reserved p b priv inp hdec hmpp] at h
    cases h

/-- Settles O25: the decision is not `noTrap`, and the target of a trap or a return is that of its committed effect. -/
theorem redirectExactlyOnTrapOrReturn : Obligations.RedirectExactlyOnTrapOrReturn := by
  intro p b priv inp r h
  refine ⟨(tick_redirectValid_iff p b priv inp r h).trans (ne_noTrap_iff _), fun c epc tval hdec => ?_,
    fun c epc hdec => ?_, tick_mret_redirectTarget p b priv inp r h, fun hdec => ?_⟩
  · obtain ⟨e, he, rfl⟩ := tick_ok _ _ _ _ _ h
    rw [hdec] at he
    cases he
    exact commit_takeTrap_redirectTarget ..
  · obtain ⟨e, he, rfl⟩ := tick_ok _ _ _ _ _ h
    rw [hdec] at he
    cases he
    exact commit_takeTrap_redirectTarget ..
  · obtain ⟨r', hr', -, htarget, -⟩ := supervisorReturn p b priv inp hdec
    rw [hr'] at h
    cases h
    exact htarget

end Sys2Proof.Machine
end

section
/-!
PROOF. The state after reset (O1): every register of the bank is zero there, so every address but that of `misa` reads as
zero.
-/

namespace Sys2Proof.Machine

/-- In the reset bank every register and view but `misa` reads as zero: a view masks the zero of its register, and the
two counter addresses read the halves of the zero counter. -/
theorem csrValue_reset_of_ne_misa (p : Params) (c : Csr) (hc : c ≠ .misa) : csrValue p Bank.reset c = 0 := by
  cases c with
  | misa => exact absurd rfl hc
  | sstatus => exact BitVec.zero_and
  | sie => exact BitVec.zero_and
  | _ => rfl

/-- Only the address 0x301 names `misa` (R33). -/
theorem eq_of_csrAt_misa (a : CsrAddr) (h : csrAt a = some .misa) : a = 0x301 := by
  simpa [csrMap] using mem_csrMap_of_csrAt a .misa h

/-- In the reset bank every address but that of `misa` reads as zero, mapped or not. -/
theorem csrRead_reset_of_ne_misa (p : Params) (a : CsrAddr) (ha : a ≠ 0x301) : csrRead p Bank.reset a = 0 := by
  cases h : csrAt a with
  | none => exact csrRead_of_csrAt_none p Bank.reset a h
  | some c =>
    have hc : c ≠ .misa := fun hmisa => ha (eq_of_csrAt_misa a (hmisa ▸ h))
    simpa only [csrRead, h] using csrValue_reset_of_ne_misa p c hc

/-- Settles O1: the registers are those of `Bank.reset`, and a register other than `misa` reads as zero there. -/
theorem resetLeavesTheSpecifiedValues : Obligations.ResetLeavesTheSpecifiedValues := by
  intro p
  exact ⟨rfl, rfl, rfl, rfl, rfl, rfl, rfl, rfl, rfl, rfl, rfl, rfl, rfl, rfl, rfl, rfl, rfl, rfl, rfl,
    csrRead_reset_of_ne_misa p⟩

end Sys2Proof.Machine
end

section
/-!
PROOF. The step and the encoding (O53, O54, O55, O57, O58): the one or two ticks that a step is, what its last tick's
outputs say of the state it leaves, and that every accepted word is an encoding.
-/

namespace Sys2Proof.Machine

/-! ### The ticks of a step -/

/-- The step from `s` to `t` is the one tick `r` (R231). -/
def OneTickStep (s t : State) (r : TickResult) : Prop :=
  ∃ env ft inp, tick s.params s.bank s.priv inp = .ok r ∧ t = s.afterTick env ft [] inp r

/-- The step from `s` to `t` is the read tick `r` of a CSR instruction and its write tick `r₂` (R231). -/
def TwoTickStep (s t : State) (r r₂ : TickResult) : Prop :=
  ∃ rd csr inp inp₂ env, tick s.params s.bank s.priv inp = .ok r ∧ tick s.params r.bank r.priv inp₂ = .ok r₂ ∧
    t = (s.afterCsrRead rd csr r).afterTick env (s.afterCsrRead rd csr r).pc [r.out] inp₂ r₂

/-- An instruction that answers is one tick or two. -/
theorem exec_one_or_two_ticks (i : Instr) (s t : State) (h : exec i s = .next t) :
    (∃ r, OneTickStep s t r) ∨ ∃ r r₂, TwoTickStep s t r r₂ := by
  rcases controlKind_or_csrOperands i with ⟨k, hk⟩ | ⟨rd, csr, hi⟩
  · rw [exec_of_controlKind i k hk s] at h
    obtain ⟨r, hr, ht⟩ := execControl_next k s t h
    exact .inl ⟨r, _, _, _, hr, ht⟩
  · obtain ⟨we, new, hexec⟩ := exec_of_csrOperands i rd csr hi s
    obtain ⟨r, r₂, hr, -, hr₂, hnext⟩ := execCsr_next rd csr we new s
    rw [hexec, hnext] at h
    cases h
    exact .inr ⟨r, r₂, rd, csr, _, _, _, hr, hr₂, rfl⟩

/-- A step that answers is one tick or two. -/
theorem step_one_or_two_ticks (s t : State) (h : step s = .next t) :
    (∃ r, OneTickStep s t r) ∨ ∃ r r₂, TwoTickStep s t r r₂ := by
  rcases step_cases s with ⟨inp, rest, -, hs⟩ | ⟨-, hs⟩
  · obtain ⟨r, hr, ht⟩ := idleTick_next inp rest s t (hs ▸ h)
    exact .inl ⟨r, _, _, _, hr, ht⟩
  · obtain ⟨i, hi⟩ := runNext_next s t (hs ▸ h)
    exact exec_one_or_two_ticks i s t hi

/-! ### The invariant of a step -/

/-- No privilege is encoded as `0b10` (R30). -/
theorem privBits_ne_reserved (priv : Priv) : privBits priv ≠ 0b10#2 := by
  cases priv <;> decide

/-- What the outputs of a tick say of the state that it leaves (R52, R181, R424, R425). -/
theorem lastTickOk_afterTick (p : Params) (b : Bank) (priv : Priv) (s : State) (env : List EnvTick) (ft : Word)
    (earlier : List TickOutputs) (inp : TickInputs) (r : TickResult) (h : tick p b priv inp = .ok r) :
    LastTickOk (s.afterTick env ft earlier inp r) r.out := by
  refine ⟨?_, fun hidle => ?_, nextFetch_of_redirect ft inp r.out,
    fun hpulse => ((tick_startPaging_iff p b priv inp r h).mp hpulse).2⟩
  · obtain ⟨e, -, rfl⟩ := tick_ok _ _ _ _ _ h
    exact privBits_ne_reserved priv
  · obtain ⟨e, -, rfl⟩ := tick_ok _ _ _ _ _ h
    have hnone : e.redirectValid = false := hidle
    simp [commit, tickOutputs, hnone]

/-- A state that a tick leaves meets the invariant where the store and slot 0 before the tick do. -/
theorem stepInv_afterTick (p : Params) (b : Bank) (priv : Priv) (s : State) (env : List EnvTick) (ft : Word)
    (earlier : List TickOutputs) (inp : TickInputs) (r : TickResult) (h : tick p b priv inp = .ok r)
    (hmem : Memory.wf s.mem = true) (hzero : s.x[0]? = some 0) :
    StepInv (s.afterTick env ft earlier inp r) := by
  refine ⟨hmem, hzero, fun o ho => ?_⟩
  rw [State.afterTick_outs, List.getLast?_concat] at ho
  cases ho
  exact lastTickOk_afterTick p b priv s env ft earlier inp r h

/-- Settles O53: neither tick of a step touches the program store, the write of `x[rd]` between them leaves slot 0, and
the outputs kept last are those of the last tick. -/
theorem stepKeepsTheInvariant : Obligations.StepKeepsTheInvariant := by
  intro s t hinv h
  obtain ⟨hmem, hzero, -⟩ := hinv
  rcases step_one_or_two_ticks s t h with ⟨r, env, ft, inp, hr, rfl⟩ | ⟨r, r₂, rd, csr, inp, inp₂, env, -, hr₂, rfl⟩
  · exact stepInv_afterTick _ _ _ s env ft [] inp r hr hmem hzero
  · have hzero' : (s.afterCsrRead rd csr r).x[0]? = some 0 := (xWrite_slot_zero ..).trans hzero
    exact stepInv_afterTick _ _ _ _ env _ _ inp₂ r₂ hr₂ hmem hzero'

/-- Settles O54: after reset the store is empty, the registers are zero and no tick has been. -/
theorem resetMeetsTheInvariant : Obligations.ResetMeetsTheInvariant := by
  have hreset : ∀ p, StepInv (State.resetWith p) := fun p => ⟨rfl, rfl, nofun⟩
  exact fun p => ⟨hreset p, hreset Config.defaults⟩

/-! ### The mode -/

/-- A tick that asserts no redirect decided on no trap and no return, and commits its ordinary write alone (R163, R341). -/
theorem tick_of_no_redirect (p : Params) (b : Bank) (priv : Priv) (inp : TickInputs) (r : TickResult)
    (h : tick p b priv inp = .ok r) (hredirect : r.out.redirectValid = false) :
    r.priv = priv ∧ r.bank = { snapshot p b inp with cyc := b.cyc + 1 } := by
  have hdec : arbitrate p priv (snapshot p b inp) inp = .noTrap := by
    by_contra hne
    rw [(tick_redirectValid_iff p b priv inp r h).mpr hne] at hredirect
    cases hredirect
  obtain ⟨-, hpriv, hbank⟩ := tick_noTrap p b priv inp r h hdec
  exact ⟨hpriv, hbank⟩

/-- A tick that changes the mode asserts a redirect (R341). -/
theorem tick_redirect_of_priv_ne (p : Params) (b : Bank) (priv : Priv) (inp : TickInputs) (r : TickResult)
    (h : tick p b priv inp = .ok r) (hne : r.priv ≠ priv) : r.out.redirectValid = true := by
  by_contra hredirect
  exact hne (tick_of_no_redirect p b priv inp r h (Bool.eq_false_iff.mpr hredirect)).1

/-- Settles O55: of the ticks of a step, the one that changes the mode is the one that redirects. -/
theorem stepChangesModeOnlyByRedirect : Obligations.StepChangesModeOnlyByRedirect := by
  intro s t h
  rcases step_one_or_two_ticks s t h with ⟨r, env, ft, inp, hr, rfl⟩ | ⟨r, r₂, rd, csr, inp, inp₂, env, hr, hr₂, rfl⟩
  · exact ⟨rfl, rfl, fun hne => ⟨r.out, List.mem_cons_self, tick_redirect_of_priv_ne _ _ _ _ _ hr hne⟩⟩
  · refine ⟨rfl, rfl, fun hne => ?_⟩
    by_cases hread : r.priv = s.priv
    · exact ⟨r₂.out, by simp, tick_redirect_of_priv_ne _ _ _ _ _ hr₂ (hread ▸ hne)⟩
    · exact ⟨r.out, by simp, tick_redirect_of_priv_ne _ _ _ _ _ hr hread⟩

end Sys2Proof.Machine

namespace Sys2Proof

/-! ### The encoder on what the decoder gives -/

/-- Settles O57: the round trip on the word and on the bytes. -/
theorem decodeInvertsEncode : Obligations.DecodeInvertsEncode :=
  fun i rest h => ⟨decodeWord_encode i h, decode_encodeBytes i rest h⟩

/-- The register number of a five-bit field goes back into that field. -/
theorem ofNat_rdField (w : Word) : BitVec.ofNat 5 (rdField w) = w.extractLsb' 7 5 := by
  rw [rdField, BitVec.ofNat_toNat, BitVec.setWidth_eq]

/-- The same of the field of `rs1`, which is also that of the immediate (R111). -/
theorem ofNat_rs1Field (w : Word) : BitVec.ofNat 5 (rs1Field w) = zimmField w := by
  rw [rs1Field, zimmField, BitVec.ofNat_toNat, BitVec.setWidth_eq]

/-- A word with the SYSTEM opcode is assembled from its own fields (R110). -/
theorem systemWord_fields (w : Word) (h : opcodeField w = 0x73) :
    systemWord (csrField w) (zimmField w) (funct3Field w) (BitVec.ofNat 5 (rdField w)) = w := by
  have hop : (0b1110011#7) = w.extractLsb' 0 7 := h.symm
  rw [systemWord, ofNat_rdField, csrField, zimmField, funct3Field, hop,
    BitVec.extractLsb'_append_extractLsb'_eq_extractLsb' (by rfl),
    BitVec.extractLsb'_append_extractLsb'_eq_extractLsb' (by rfl),
    BitVec.extractLsb'_append_extractLsb'_eq_extractLsb' (by rfl),
    BitVec.extractLsb'_append_extractLsb'_eq_extractLsb' (by rfl)]
  exact BitVec.extractLsb'_eq_self

/-- A privileged instruction is encoded with its function code and no operands (R112). -/
theorem encode_of_decodePrivileged (funct12 : BitVec 12) (i : Instr) (h : decodePrivileged funct12 = .ok i) :
    encode i = systemWord funct12 0 0 0 := by
  unfold decodePrivileged at h
  split_ifs at h with h1 h2 h3 h4
  · cases h; rw [h1]; rfl
  · cases h; rw [h2]; rfl
  · cases h; rw [h3]; rfl
  · cases h; rw [h4]; rfl

/-- What the decoder gives is encoded from the fields of the word it was given. -/
theorem encode_of_decodeWord (w : Word) (i : Instr) (h : decodeWord w = .ok i) :
    opcodeField w = 0x73 ∧
      encode i = systemWord (csrField w) (zimmField w) (funct3Field w) (BitVec.ofNat 5 (rdField w)) := by
  unfold decodeWord at h
  split_ifs at h with hop hpriv hregs hrw hrs hrc hunused hrwi hrsi
  all_goals refine ⟨not_not.mp hop, ?_⟩
  · obtain ⟨hrd, hrs1⟩ := hregs
    rw [encode_of_decodePrivileged _ i h, ← ofNat_rs1Field, hrd, hrs1, hpriv]
    rfl
  · cases h; rw [encode, ofNat_rs1Field, hrw]; rfl
  · cases h; rw [encode, ofNat_rs1Field, hrs]; rfl
  · cases h; rw [encode, ofNat_rs1Field, hrc]; rfl
  · cases h; rw [encode, hrwi]; rfl
  · cases h; rw [encode, hrsi]; rfl
  · have hrci : funct3Field w = 0b111#3 := by bv_omega
    cases h; rw [encode, hrci]; rfl

/-- Settles O58: the word is assembled from the fields that the instruction is encoded from. -/
theorem encodeInvertsDecode : Obligations.EncodeInvertsDecode := by
  intro w i h
  obtain ⟨hop, hencode⟩ := encode_of_decodeWord w i h
  exact ⟨decodeWord_wf w i h, hencode.trans (systemWord_fields w hop)⟩

end Sys2Proof
end

section
/-!
PROOF. The ports of the CSR bank and what a tick shows of them (O4, O5, O6, O7, O10, O17): what an ordinary write stores,
what the read port shows in the tick of a write, and that three registers influence nothing else.
-/

namespace Sys2Proof.Machine

/-! ### What an ordinary write stores -/

/-- A register stored whole reads as the word just written to it (R161). -/
theorem csrRead_applyOrdinary_of_wholeWord (p : Params) (b : Bank) (a : CsrAddr) (d : Word) (ha : a ∈ wholeWordCsrs) :
    csrRead p (applyOrdinary p b (some (a, d))) a = d := by
  simp only [wholeWordCsrs, List.mem_cons, List.not_mem_nil, or_false] at ha
  rcases ha with rfl | rfl | rfl | rfl | rfl | rfl | rfl | rfl | rfl | rfl | rfl | rfl | rfl | rfl | rfl <;> rfl

/-- A write to a register that ignores it changes nothing (R45, R46). -/
theorem applyOrdinary_of_readOnly (p : Params) (b : Bank) (a : CsrAddr) (d : Word) (ha : a ∈ readOnlyCsrs) :
    applyOrdinary p b (some (a, d)) = b := by
  simp only [readOnlyCsrs, List.mem_cons, List.not_mem_nil, or_false] at ha
  rcases ha with rfl | rfl | rfl <;> rfl

/-- A write to an unmapped address changes nothing (R161). -/
theorem applyOrdinary_of_csrAt_none (p : Params) (b : Bank) (a : CsrAddr) (d : Word) (h : csrAt a = none) :
    applyOrdinary p b (some (a, d)) = b := by
  simp [applyOrdinary, h]

/-- Settles O4: an address that is neither of a register stored whole nor of a view ignores the write or is unmapped. -/
theorem ordinaryWriteStoresTheWord : Obligations.OrdinaryWriteStoresTheWord := by
  intro p b a d
  refine ⟨csrRead_applyOrdinary_of_wholeWord p b a d, fun hwhole hview => ?_⟩
  by_cases hro : a ∈ readOnlyCsrs
  · exact applyOrdinary_of_readOnly p b a d hro
  · exact applyOrdinary_of_csrAt_none p b a d (csrAt_unmapped a hwhole hro hview)

/-! ### The views -/

/-- The merge takes the bits under the mask from the data and the others from the old word (R36, R42). -/
theorem maskedMerge_getLsbD (mask old data : Word) (i : Nat) (hi : i < 32) :
    (maskedMerge mask old data).getLsbD i = if mask.getLsbD i then data.getLsbD i else old.getLsbD i := by
  rw [maskedMerge, BitVec.getLsbD_or, BitVec.getLsbD_and, BitVec.getLsbD_and, BitVec.getLsbD_not]
  cases mask.getLsbD i <;> simp [hi]

/-- Under the mask a merged word is the data. -/
theorem maskedMerge_and_mask (mask old data : Word) : maskedMerge mask old data &&& mask = data &&& mask := by
  apply BitVec.eq_of_getLsbD_eq
  intro i hi
  rw [BitVec.getLsbD_and, maskedMerge_getLsbD mask old data i hi, BitVec.getLsbD_and]
  cases mask.getLsbD i <;> simp

/-- Settles O5: a view's write is the merge into its register, and the view reads that register under its mask. -/
theorem viewsMergeUnderTheirMasks : Obligations.ViewsMergeUnderTheirMasks := by
  intro p b d
  exact ⟨maskedMerge_and_mask .., maskedMerge_and_mask ..,
    fun i hi => ⟨maskedMerge_getLsbD _ _ _ i hi, maskedMerge_getLsbD _ _ _ i hi⟩⟩

/-- Settles O6: addresses that do not share storage name registers with different backing. -/
theorem ordinaryWriteChangesOneRegister : Obligations.OrdinaryWriteChangesOneRegister :=
  fun p b a a' d h => csrRead_applyOrdinary_of_not_shareStorage p b a a' d h

/-! ### The read port in the tick of a write -/

/-- Only the address 0xC00 names the low half of the counter (R33). -/
theorem eq_of_csrAt_cycle (a : CsrAddr) (h : csrAt a = some .cycle) : a = 0xC00 := by
  simpa [csrMap] using mem_csrMap_of_csrAt a .cycle h

/-- Only the address 0xC80 names the high half of the counter (R33). -/
theorem eq_of_csrAt_cycleh (a : CsrAddr) (h : csrAt a = some .cycleh) : a = 0xC80 := by
  simpa [csrMap] using mem_csrMap_of_csrAt a .cycleh h

/-- Only the two halves of the counter read from it (R46). -/
theorem csrRead_with_cyc (p : Params) (b : Bank) (n : Counter) (a : CsrAddr) (hlow : a ≠ 0xC00) (hhigh : a ≠ 0xC80) :
    csrRead p { b with cyc := n } a = csrRead p b a := by
  cases h : csrAt a with
  | none => rw [csrRead_of_csrAt_none p _ a h, csrRead_of_csrAt_none p b a h]
  | some c =>
    simp only [csrRead, h]
    cases c with
    | cycle => exact absurd (eq_of_csrAt_cycle a h) hlow
    | cycleh => exact absurd (eq_of_csrAt_cycleh a h) hhigh
    | _ => rfl

/-- A register stored whole is not a half of the counter. -/
theorem ne_counter_of_wholeWord (a : CsrAddr) (ha : a ∈ wholeWordCsrs) : a ≠ 0xC00 ∧ a ≠ 0xC80 := by
  constructor
  · rintro rfl
    simp [wholeWordCsrs] at ha
  · rintro rfl
    simp [wholeWordCsrs] at ha

/-- After a tick without a redirect an address reads as it does in the tick's snapshot, the counter apart (R420). -/
theorem csrRead_of_no_redirect (p : Params) (b : Bank) (priv : Priv) (inp : TickInputs) (r : TickResult)
    (h : tick p b priv inp = .ok r) (hredirect : r.out.redirectValid = false) (a : CsrAddr) (hlow : a ≠ 0xC00)
    (hhigh : a ≠ 0xC80) : csrRead p r.bank a = csrRead p (snapshot p b inp) a := by
  rw [(tick_of_no_redirect p b priv inp r h hredirect).2]
  exact csrRead_with_cyc p _ _ a hlow hhigh

/-- Settles O7: the read port shows the snapshot, which is the stored bank or the written one; each clause is what the
written bank reads as. -/
theorem forwardedReadSeesTheWrite : Obligations.ForwardedReadSeesTheWrite := by
  intro p b priv inp r h
  have hread := tick_csrRData p b priv inp r h
  refine ⟨hread, fun hw => by rw [hread, snapshot_of_no_write p b inp hw], fun hw => ?_, fun hredirect hlow hhigh =>
    (csrRead_of_no_redirect p b priv inp r h hredirect _ hlow hhigh).trans hread.symm⟩
  have hafter := fun hredirect a => csrRead_of_no_redirect p b priv inp r h hredirect a
  rw [snapshot_of_write p b inp hw] at hread hafter
  rw [hread]
  refine ⟨fun ha hr => ?whole, fun ha hr => ?readOnly, fun hshare => ?other, fun ha hr => ?sstatus, fun ha hr => ?sie,
    fun ha hr => ?mstatusMerged, fun ha hr => ?mieMerged, fun ha hr => ?mstatusView, fun ha hr => ?mieView,
    fun hwhole hro hview hr => ?unmapped, fun ha hredirect => ?committed⟩
  case whole => rw [hr]; exact csrRead_applyOrdinary_of_wholeWord p b _ _ ha
  case readOnly => rw [applyOrdinary_of_readOnly p b _ _ ha]
  case other => exact csrRead_applyOrdinary_of_not_shareStorage p b _ _ _ hshare
  case sstatus => rw [ha, hr]; exact maskedMerge_and_mask ..
  case sie => rw [ha, hr]; exact maskedMerge_and_mask ..
  case mstatusMerged | mieMerged | mstatusView | mieView => rw [ha, hr]; rfl
  case unmapped => rw [hr]; exact csrRead_of_csrAt_none p _ _ (csrAt_unmapped _ hwhole hro hview)
  case committed =>
    obtain ⟨hlow, hhigh⟩ := ne_counter_of_wholeWord _ ha
    rw [hafter hredirect _ hlow hhigh]
    exact csrRead_applyOrdinary_of_wholeWord p b _ _ ha

/-! ### Translation enabled -/

/-- `mmu_enable` is the enable bit stored at the start of the tick (R180). -/
theorem tick_mmuEnable (p : Params) (b : Bank) (priv : Priv) (inp : TickInputs) (r : TickResult)
    (h : tick p b priv inp = .ok r) : r.out.mmuEnable = b.satp.getLsbD 31 := by
  obtain ⟨e, -, rfl⟩ := tick_ok _ _ _ _ _ h
  rfl

/-- Settles O10: the output is the stored bit, and a tick without a redirect stores the written word. -/
theorem translationEnableSeenNextTick : Obligations.TranslationEnableSeenNextTick := by
  intro p b priv inp inp₂ r r₂ h h₂
  have hnext := tick_mmuEnable p r.bank r.priv inp₂ r₂ h₂
  refine ⟨tick_mmuEnable p b priv inp r h, hnext, fun hw ha hredirect => ?_⟩
  have hsatp : r.bank.satp = inp.csrWData := by
    rw [(tick_of_no_redirect p b priv inp r h hredirect).2]
    exact (snapshot_satp p b inp).trans (if_pos ⟨hw, ha⟩)
  rw [hnext, hsatp]

/-! ### The registers that the block does not interpret -/

/-- The bank with other values in `mie`, `mscratch` and `sscratch`. -/
def Bank.withUninterpreted (b : Bank) (mie mscratch sscratch : Word) : Bank :=
  { b with mie := mie, mscratch := mscratch, sscratch := sscratch }

/-- Putting the three registers back gives back the bank. -/
theorem Bank.restore_of_eq_withUninterpreted {b b' : Bank} {x y z : Word} (h : b' = b.withUninterpreted x y z) :
    { b' with mie := b.mie, mscratch := b.mscratch, sscratch := b.sscratch } = b := by
  subst h
  rfl

/-- An ordinary write stores the same beside other values of the three registers, or changes one of these. -/
theorem applyOrdinary_withUninterpreted (p : Params) (b : Bank) (w : Option (CsrAddr × Word)) (x y z : Word) :
    ∃ x' y' z', applyOrdinary p (b.withUninterpreted x y z) w =
      (applyOrdinary p b w).withUninterpreted x' y' z' := by
  cases w with
  | none => exact ⟨x, y, z, rfl⟩
  | some v =>
    obtain ⟨a, d⟩ := v
    cases h : csrAt a with
    | none => exact ⟨x, y, z, by simp only [applyOrdinary, h]⟩
    | some c =>
      simp only [applyOrdinary, h]
      cases c with
      | sie => exact ⟨maskedMerge p.sieMask x d, y, z, rfl⟩
      | mie => exact ⟨d, y, z, rfl⟩
      | mscratch => exact ⟨x, d, z, rfl⟩
      | sscratch => exact ⟨x, y, d, rfl⟩
      | _ => exact ⟨x, y, z, rfl⟩

section
variable (p : Params) (priv : Priv) (snap : Bank) (x y z : Word)

/-- The arbitration reads none of the three registers (R42, R43). -/
theorem arbitrate_withUninterpreted (inp : TickInputs) :
    arbitrate p priv (snap.withUninterpreted x y z) inp = arbitrate p priv snap inp := rfl

/-- No effect reads any of the three registers. -/
theorem effect_withUninterpreted (dec : Decision) :
    effect dec priv (snap.withUninterpreted x y z) = effect dec priv snap := by
  cases dec with
  | excTrap c epc tval | intTrap c epc | mret | sret | noTrap => rfl

end

/-- A commit leaves banks that differ in the three registers alone, if it starts from such banks. -/
theorem commitBank_withUninterpreted (p : Params) (b : Bank) (inp : TickInputs) (dw : Option DirectWrite)
    (x y z : Word) :
    ∃ x' y' z', commitBank p (b.withUninterpreted x y z) inp dw =
      (commitBank p b inp dw).withUninterpreted x' y' z' := by
  obtain ⟨x', y', z', hsnap⟩ := applyOrdinary_withUninterpreted p b (ordinaryWrite inp) x y z
  simp only [commitBank, snapshot, hsnap]
  cases dw with
  | none => exact ⟨x', y', z', rfl⟩
  | some v =>
    cases p.ordinaryWriteOnTrapTick with
    | drop => exact ⟨x, y, z, rfl⟩
    | keepUntouched => exact ⟨x', y', z', rfl⟩

/-- The effect that a tick commits is the same for banks that differ in the three registers alone. -/
theorem tickEffect_withUninterpreted (p : Params) (b : Bank) (priv : Priv) (inp : TickInputs) (x y z : Word) :
    effect (arbitrate p priv (snapshot p (b.withUninterpreted x y z) inp) inp) priv
        (snapshot p (b.withUninterpreted x y z) inp) =
      effect (arbitrate p priv (snapshot p b inp) inp) priv (snapshot p b inp) := by
  obtain ⟨x', y', z', hsnap⟩ := applyOrdinary_withUninterpreted p b (ordinaryWrite inp) x y z
  have hsnap' : snapshot p (b.withUninterpreted x y z) inp = (snapshot p b inp).withUninterpreted x' y' z' := hsnap
  rw [hsnap', arbitrate_withUninterpreted, effect_withUninterpreted]

/-- A tick faults exactly where the effect of its decision does (R185). -/
theorem tick_eq_error_iff (p : Params) (b : Bank) (priv : Priv) (inp : TickInputs) (f : Fault) :
    tick p b priv inp = .error f ↔
      effect (arbitrate p priv (snapshot p b inp) inp) priv (snapshot p b inp) = .error f := by
  cases he : effect (arbitrate p priv (snapshot p b inp) inp) priv (snapshot p b inp) with
  | error _ => simp [tick, he]
  | ok _ => simp [tick, he]

/-- Settles O17: the tick has the same effect for both banks, and commits it to banks that differ in the three registers
alone. -/
theorem uninterpretedRegistersDoNotInfluence : Obligations.UninterpretedRegistersDoNotInfluence := by
  intro p b priv inp mie mscratch sscratch
  have heffect := tickEffect_withUninterpreted p b priv inp mie mscratch sscratch
  refine ⟨fun f h => ?_, fun r h => ?_⟩
  · exact (tick_eq_error_iff p (b.withUninterpreted mie mscratch sscratch) priv inp f).mpr
      (heffect.trans ((tick_eq_error_iff p b priv inp f).mp h))
  · obtain ⟨e, he, rfl⟩ := tick_ok _ _ _ _ _ h
    obtain ⟨x', y', z', hbank⟩ := commitBank_withUninterpreted p b inp e.dw mie mscratch sscratch
    exact ⟨_, tick_of_effect p (b.withUninterpreted mie mscratch sscratch) priv inp e (heffect.trans he), rfl, rfl,
      Bank.restore_of_eq_withUninterpreted hbank⟩

end Sys2Proof.Machine
end

section
/-!
PROOF. The decision of a tick and what it commits (O2, O11, O15, O16, O20, O23, O26 to O31): when an interrupt is decided,
which tick stops, where the latch goes, and which registers and `mstatus` bits a tick keeps.
-/

namespace Sys2Proof.Machine

/-! ### The interrupt gate -/

/-- An interrupt is decided only where condition 4 of R300 holds, with the code of the line and the address that fetch
would go to next (R311, R314). -/
theorem interrupt_of_arbitrate (p : Params) (priv : Priv) (snap : Bank) (inp : TickInputs) (c : Code) (epc : Word)
    (h : arbitrate p priv snap inp = .intTrap c epc) :
    noInterrupt p priv snap inp = false ∧ c = intCode inp.irq ∧ epc = intReturnAddress inp := by
  unfold arbitrate at h
  rw [interruptCondition_eq] at h
  repeat' split at h
  all_goals cases h
  exact ⟨(Bool.not_eq_true' _).mp ‹_›, rfl, rfl⟩

/-- With no exception of conditions 1 to 3, an interrupt is decided exactly where condition 4 holds. -/
theorem arbitrate_eq_intTrap_iff (p : Params) (priv : Priv) (snap : Bank) (inp : TickInputs) (c : Code) (epc : Word)
    (hflag : noFlag inp = true) (hkind : noEnvKind p inp = true) :
    arbitrate p priv snap inp = .intTrap c epc ↔
      noInterrupt p priv snap inp = false ∧ c = intCode inp.irq ∧ epc = intReturnAddress inp := by
  refine ⟨interrupt_of_arbitrate p priv snap inp c epc, fun ⟨hint, hc, hepc⟩ => ?_⟩
  rw [arbitrate_of_interrupt p priv snap inp hflag hkind hint, hc, hepc]

/-- Condition 4 is a line held and the gate of the current mode open (R310). -/
theorem noInterrupt_eq_false_iff (p : Params) (priv : Priv) (snap : Bank) (inp : TickInputs) :
    noInterrupt p priv snap inp = false ↔ inp.irq ≠ 0 ∧ intTaken p priv snap (intCode inp.irq) = true := by
  simp [noInterrupt]

/-- The gate at Machine: not delegated, and MIE set (R312). -/
theorem intTaken_machine_iff (p : Params) (snap : Bank) (c : Code) : intTaken p .machine snap c = true ↔
    snap.mideleg.getLsbD c.toNat = false ∧ snap.mstatus.getLsbD 3 = true := by
  simp [intTaken, statusMie]

/-- The gate at Supervisor: SIE set, or not delegated and `INT_GATE_BELOW_M = ALWAYS` (R312). -/
theorem intTaken_supervisor_iff (p : Params) (snap : Bank) (c : Code) : intTaken p .supervisor snap c = true ↔
    (snap.mideleg.getLsbD c.toNat = true ∧ snap.mstatus.getLsbD 1 = true) ∨
      (snap.mideleg.getLsbD c.toNat = false ∧ (snap.mstatus.getLsbD 1 = true ∨ p.intGateBelowM = .always)) := by
  cases hdeleg : snap.mideleg.getLsbD c.toNat with
  | true => simp [intTaken, statusSie, hdeleg]
  | false => simp [intTaken, statusSie, hdeleg, or_comm]

/-- At User the gate is always open (R312). -/
theorem intTaken_user (p : Params) (snap : Bank) (c : Code) : intTaken p .user snap c = true := rfl

/-- Settles O15: the decision is condition 4, whose gate is that of the mode. -/
theorem interruptGateByMode : Obligations.InterruptGateByMode := by
  intro p priv snap inp c epc hflag hkind
  rw [arbitrate_eq_intTrap_iff p priv snap inp c epc hflag hkind, noInterrupt_eq_false_iff, and_assoc]
  refine and_congr_right fun _ => ⟨fun ⟨hgate, hc, hepc⟩ => ⟨hc, hepc, ?_⟩, fun ⟨hc, hepc, hgate⟩ => ⟨?_, hc, hepc⟩⟩
  · rw [← hc] at hgate
    cases priv with
    | machine => exact (intTaken_machine_iff p snap c).mp hgate
    | supervisor => exact (intTaken_supervisor_iff p snap c).mp hgate
    | user => trivial
  · have hcode : intCode inp.irq = c := hc.symm
    rw [hcode]
    cases priv with
    | machine => exact (intTaken_machine_iff p snap c).mpr hgate
    | supervisor => exact (intTaken_supervisor_iff p snap c).mpr hgate
    | user => exact intTaken_user p snap c

/-- At Machine no interrupt passes its gate while MIE is clear (R312). -/
theorem noInterrupt_machine_of_mie_clear (p : Params) (snap : Bank) (inp : TickInputs)
    (h : snap.mstatus.getLsbD 3 = false) : noInterrupt p .machine snap inp = true := by
  by_contra hint
  obtain ⟨-, hgate⟩ := (noInterrupt_eq_false_iff p .machine snap inp).mp (Bool.eq_false_iff.mpr hint)
  obtain ⟨-, hmie⟩ := (intTaken_machine_iff p snap _).mp hgate
  rw [h] at hmie
  cases hmie

/-- The identity `NONE` raises no exception of the block's own making (R202). -/
theorem noEnvKind_of_none (p : Params) (inp : TickInputs) (h : kindOfBits inp.instrKind = .none) :
    noEnvKind p inp = true := by
  simp [noEnvKind, h]

/-- The MRET identity raises no exception of the block's own making (R202). -/
theorem noEnvKind_of_mret (p : Params) (inp : TickInputs) (h : kindOfBits inp.instrKind = .mret) :
    noEnvKind p inp = true := by
  simp [noEnvKind, h]

/-- With no flag, no interrupt and the identity `NONE` nothing is decided (R360). -/
theorem arbitrate_of_none (p : Params) (priv : Priv) (snap : Bank) (inp : TickInputs) (hflag : noFlag inp = true)
    (hkind : kindOfBits inp.instrKind = .none) (hint : noInterrupt p priv snap inp = true) :
    arbitrate p priv snap inp = .noTrap := by
  rw [arbitrate_of_no_trap_condition p priv snap inp hflag (noEnvKind_of_none p inp hkind) hint]
  simp [returnDecision, hkind]

/-- Settles O16: with MIE clear at Machine nothing is decided, and the snapshot is the stored bank. -/
theorem globalDisableAtMachine : Obligations.GlobalDisableAtMachine := by
  intro p b inp hw hflag hkind hmie
  have hsnap := snapshot_of_no_write p b inp hw
  have hdec : arbitrate p .machine (snapshot p b inp) inp = .noTrap := by
    rw [hsnap]
    exact arbitrate_of_none p .machine b inp hflag hkind (noInterrupt_machine_of_mie_clear p b inp hmie)
  obtain ⟨r, hr⟩ := tick_answers_of_noTrap p b .machine inp hdec
  obtain ⟨hredirect, hpriv, hbank⟩ := tick_noTrap p b .machine inp r hr hdec
  exact ⟨r, hr, hredirect, hpriv, by rw [hbank, hsnap]⟩

/-! ### The tick that stops -/

/-- Settles O11: the effect that faults is the return with an MPP that encodes no privilege, which is `0b10`. -/
theorem tickFaultsOnlyOnReservedMpp : Obligations.TickFaultsOnlyOnReservedMpp := by
  intro p b priv inp f
  constructor
  · intro h
    obtain ⟨hdec, hnone, hf⟩ := tick_error p b priv inp f h
    exact ⟨hf, hdec, (privOfBits_eq_none _).mp hnone⟩
  · rintro ⟨rfl, hdec, hmpp⟩
    exact tick_mret_of_reserved p b priv inp hdec (not_not.mpr hmpp)

/-- The encodings of two modes differ (R30). -/
theorem privBits_injective : Function.Injective privBits := by
  intro a c h
  rw [← Option.some_inj, ← privOfBits_privBits a, h, privOfBits_privBits]

/-- Settles O23: a legal MPP encodes the mode returned to and no other, the reserved one stops the tick. -/
theorem machineReturn : Obligations.MachineReturn := by
  intro p b priv inp hdec
  refine ⟨fun np hnp => ?_, fun hmpp => tick_mret_of_reserved p b priv inp hdec (not_not.mpr hmpp)⟩
  have hlegal : LegalMpp (snapshot p b inp) := by
    rw [LegalMpp, ← hnp]
    exact privBits_ne_reserved np
  obtain ⟨r, hr, hredirect, htarget, hpriv, hstatus, hkept⟩ := tick_mret_of_legal p b priv inp hdec hlegal
  obtain rfl : r.priv = np := privBits_injective (hpriv.trans hnp.symm)
  exact ⟨r, hr, hredirect, htarget, rfl, hstatus, hkept⟩

/-! ### The privilege latch -/

/-- A trap enters its target mode. -/
theorem takeTrap_newPriv (target priv : Priv) (snap : Bank) (intr : Bool) (code : Code) (epc tval : Word)
    (h : target ≠ .user) : (takeTrap target priv snap intr code epc tval).newPriv = target := by
  cases target with
  | user => exact absurd rfl h
  | supervisor | machine => rfl

/-- No exception enters User (R304). -/
theorem excTarget_ne_user (priv : Priv) (snap : Bank) (c : Code) : excTarget priv snap c ≠ .user := by
  rw [excTarget_eq]
  split_ifs <;> simp

/-- No interrupt enters User (R313). -/
theorem intTarget_ne_user (priv : Priv) (snap : Bank) (c : Code) : intTarget priv snap c ≠ .user := by
  rw [intTarget_eq]
  split_ifs <;> simp

/-- Settles O26: the latch takes the mode of the committed effect, and the output shows the mode before it. -/
theorem privilegeLatchCommit : Obligations.PrivilegeLatchCommit := by
  intro p b priv inp r h
  obtain ⟨e, he, rfl⟩ := tick_ok _ _ _ _ _ h
  refine ⟨rfl, ?_⟩
  cases hdec : arbitrate p priv (snapshot p b inp) inp with
  | excTrap c epc tval =>
    rw [hdec] at he; cases he
    exact takeTrap_newPriv _ _ _ _ _ _ _ (excTarget_ne_user _ _ _)
  | intTrap c epc =>
    rw [hdec] at he; cases he
    exact takeTrap_newPriv _ _ _ _ _ _ _ (intTarget_ne_user _ _ _)
  | mret =>
    rw [hdec] at he
    simp only [effect, returnFromM] at he
    split at he
    · rename_i np hnp
      cases he
      exact privBits_of_privOfBits _ np hnp
    · cases he
  | sret => rw [hdec] at he; cases he; rfl
  | noTrap => rw [hdec] at he; cases he; rfl

/-- Settles O20: the latch takes the target mode of the decision. -/
theorem trapTargetMode : Obligations.TrapTargetMode := by
  intro p b priv inp r h
  obtain ⟨-, hlatch⟩ := privilegeLatchCommit p b priv inp r h
  refine ⟨fun c epc tval hdec => ?_, fun c epc hdec => ?_⟩
  · rw [hdec] at hlatch
    exact hlatch.trans (excTarget_eq _ _ _)
  · rw [hdec] at hlatch
    exact hlatch.trans (intTarget_eq _ _ _)

/-! ### What a tick keeps -/

/-- Settles O27: a tick that redirects keeps the registers outside the direct-write set from the stored bank or from the
snapshot, by the parameter. -/
theorem ordinaryWriteInTrapTick : Obligations.OrdinaryWriteInTrapTick := by
  intro p b priv inp r h hredirect
  have houtside := tick_outside p b priv inp r h
  refine ⟨fun hdrop => ?_, fun hkeep => ?_⟩
  · rwa [if_pos ⟨hredirect, hdrop⟩] at houtside
  · rwa [if_neg (by simp [hkeep])] at houtside

/-- Settles O28: with no ordinary write the snapshot is the stored bank, which a tick keeps outside its fields. -/
theorem trapLogicWritesOnlyItsFields : Obligations.TrapLogicWritesOnlyItsFields := by
  intro p b priv inp r h hw
  have houtside := tick_outside p b priv inp r h
  have hstatus := tick_untrappedStatus p b priv inp r h
  rw [snapshot_of_no_write p b inp hw] at houtside hstatus
  rw [ite_self] at houtside
  exact ⟨houtside, hstatus⟩

/-- Words that agree in bits 11 and 12 have the same MPP. -/
theorem statusMpp_congr (m m' : Word) (h11 : m'.getLsbD 11 = m.getLsbD 11) (h12 : m'.getLsbD 12 = m.getLsbD 12) :
    statusMpp m' = statusMpp m :=
  statusMpp_eq m' _ (h12.trans (statusMpp_getLsbD m 1 (by decide)).symm)
    (h11.trans (statusMpp_getLsbD m 0 (by decide)).symm)

/-- A trap leaves MPP as the trapped mode, or as it was (R320, R321). -/
theorem takeTrap_mpp (target priv : Priv) (snap : Bank) (intr : Bool) (code : Code) (epc tval : Word) (v : DirectWrite)
    (hv : (takeTrap target priv snap intr code epc tval).dw = some v) :
    statusMpp v.mstatus = privBits priv ∨ statusMpp v.mstatus = statusMpp snap.mstatus := by
  cases target with
  | user | machine =>
    obtain ⟨-, -, hmpp, -⟩ := statusEnterM_spec snap.mstatus priv
    cases hv; exact .inl hmpp
  | supervisor =>
    obtain ⟨-, -, -, hkeep⟩ := statusEnterS_spec snap.mstatus priv
    cases hv; exact .inr (statusMpp_congr _ _ (hkeep 11 (by decide)) (hkeep 12 (by decide)))

/-- A direct write leaves MPP as a mode that it encodes, or as it was (R206). -/
theorem effect_mpp (dec : Decision) (priv : Priv) (snap : Bank) (e : Effect) (v : DirectWrite)
    (he : effect dec priv snap = .ok e) (hv : e.dw = some v) :
    (∃ np, statusMpp v.mstatus = privBits np) ∨ statusMpp v.mstatus = statusMpp snap.mstatus := by
  cases dec with
  | excTrap c epc tval => cases he; exact (takeTrap_mpp _ _ _ _ _ _ _ v hv).imp_left fun h => ⟨_, h⟩
  | intTrap c epc => cases he; exact (takeTrap_mpp _ _ _ _ _ _ _ v hv).imp_left fun h => ⟨_, h⟩
  | mret =>
    simp only [effect, returnFromM] at he
    split at he
    · rename_i np _
      obtain ⟨-, -, hmpp, -⟩ := statusReturnM_spec snap.mstatus np
      cases he; cases hv; exact .inl ⟨.user, hmpp⟩
    · cases he
  | sret =>
    obtain ⟨-, -, -, -, hkeep⟩ := statusReturnS_spec snap.mstatus
    cases he; cases hv; exact .inr (statusMpp_congr _ _ (hkeep 11 (by decide)) (hkeep 12 (by decide)))
  | noTrap => cases he; cases hv

/-- A tick that answers commits a legal MPP where the forwarded one is legal (R206). -/
theorem tick_legalMpp (p : Params) (b : Bank) (priv : Priv) (inp : TickInputs) (r : TickResult)
    (h : tick p b priv inp = .ok r) (hlegal : LegalMpp (snapshot p b inp)) : LegalMpp r.bank := by
  obtain ⟨e, he, rfl⟩ := tick_ok _ _ _ _ _ h
  have hbank : (commit p b priv inp e).bank = commitBank p b inp e.dw := rfl
  rw [hbank]
  cases hdw : e.dw with
  | none => exact hlegal
  | some v =>
    obtain ⟨hstatus, -⟩ := commitBank_direct p b inp v
    rw [LegalMpp, hstatus]
    rcases effect_mpp _ _ _ e v he hdw with ⟨np, hmpp⟩ | hmpp
    · rw [hmpp]; exact privBits_ne_reserved np
    · rw [hmpp]; exact hlegal

/-- Settles O31: only the reserved MPP stops a tick, and none is saved. -/
theorem legalMppIsKept : Obligations.LegalMppIsKept := by
  intro p b priv inp hlegal
  cases h : tick p b priv inp with
  | ok r => exact ⟨r, rfl, tick_legalMpp p b priv inp r h hlegal⟩
  | error f =>
    obtain ⟨-, -, hmpp⟩ := (tickFaultsOnlyOnReservedMpp p b priv inp f).mp h
    exact absurd hmpp hlegal

/-! ### The first tick after reset -/

/-- The handler address of a zero vector register is 0, as its mode is Direct (R323). -/
theorem handlerAddress_zero (intr : Bool) (code : Code) : handlerAddress 0 intr code = 0 :=
  handlerAddress_of_direct 0 intr code (.inr (by decide))

/-- A tick whose snapshot is the reset bank redirects to address 0 or not at all (R403). -/
theorem tick_redirectTarget_of_reset (p : Params) (b : Bank) (priv : Priv) (inp : TickInputs) (r : TickResult)
    (h : tick p b priv inp = .ok r) (hsnap : snapshot p b inp = Bank.reset) : r.out.redirectTarget = 0 := by
  obtain ⟨-, hexc, hint, hmret, hsret⟩ := redirectExactlyOnTrapOrReturn p b priv inp r h
  have hvector : (if r.priv = .supervisor then Bank.reset.stvec else Bank.reset.mtvec) = 0 := ite_self _
  rw [hsnap] at hexc hint hmret hsret
  cases hdec : arbitrate p priv Bank.reset inp with
  | excTrap c epc tval => rw [hexc c epc tval hdec, hvector, handlerAddress_zero]
  | intTrap c epc => rw [hint c epc hdec, hvector, handlerAddress_zero]
  | mret => exact hmret hdec
  | sret => exact hsret hdec
  | noTrap =>
    have hidle : r.out.redirectValid = false := (tick_noTrap p b priv inp r h (hsnap ▸ hdec)).1
    obtain ⟨-, htarget, -⟩ := lastTickOk_afterTick p b priv State.reset [] 0 [] inp r h
    exact htarget hidle

/-- Settles O2: every register that the controller reads is zero, MPP and MIE with it. -/
theorem firstTickAfterReset : Obligations.FirstTickAfterReset := by
  intro p inp hw
  have hsnap : snapshot p Bank.reset inp = Bank.reset := snapshot_of_no_write p Bank.reset inp hw
  have hlegal : LegalMpp (snapshot p Bank.reset inp) := by
    rw [hsnap, LegalMpp]
    decide
  obtain ⟨r, hr, -⟩ := legalMppIsKept p Bank.reset .machine inp hlegal
  refine ⟨r, hr, tick_mmuEnable _ _ _ _ _ hr, tick_redirectTarget_of_reset _ _ _ _ _ hr hsnap, fun c epc hdec => ?_,
    fun ⟨c, epc, tval, hdec⟩ => ?_⟩
  · obtain ⟨hint, -, -⟩ := interrupt_of_arbitrate p .machine Bank.reset inp c epc hdec
    rw [noInterrupt_machine_of_mie_clear p Bank.reset inp BitVec.getLsbD_zero] at hint
    cases hint
  · obtain ⟨hexc, -⟩ := trapTargetMode p Bank.reset .machine inp r hr
    rw [hsnap] at hexc
    simpa using hexc c epc tval hdec

/-! ### Interrupts that a write or a return lets in -/

/-- Settles O29: the snapshot has MIE set, so the gate is open, and the entry into Machine saves and clears it. -/
theorem sameTickEnableTakesInterrupt : Obligations.SameTickEnableTakesInterrupt := by
  intro p b inp hflag hkind hirq hw ha hmie hdeleg
  have hsnap : snapshot p b inp = { b with mstatus := inp.csrWData } := by
    rw [snapshot_of_write p b inp hw, ha]
    rfl
  have hint : noInterrupt p .machine (snapshot p b inp) inp = false := by
    rw [noInterrupt_eq_false_iff, hsnap]
    exact ⟨hirq, (intTaken_machine_iff _ _ _).mpr ⟨hdeleg, hmie⟩⟩
  obtain ⟨r, hr, hredirect, hentered⟩ :=
    tick_intTrap p b .machine inp _ _ (arbitrate_of_interrupt p .machine _ inp hflag hkind hint)
  rw [if_neg (by simp), hsnap] at hentered
  obtain ⟨-, hmepc, hmcause, -, ⟨hmpie, hmieOff, -⟩, -, -, -, htarget⟩ := hentered
  exact ⟨r, hr, hredirect, htarget, hmieOff, hmpie.trans hmie, hmepc, hmcause⟩

/-- At Machine no delegated interrupt passes its gate (R312). -/
theorem noInterrupt_machine_of_delegated (p : Params) (snap : Bank) (inp : TickInputs)
    (h : snap.mideleg.getLsbD (intCode inp.irq).toNat = true) : noInterrupt p .machine snap inp = true := by
  by_contra hint
  obtain ⟨-, hgate⟩ := (noInterrupt_eq_false_iff p .machine snap inp).mp (Bool.eq_false_iff.mpr hint)
  obtain ⟨hdeleg, -⟩ := (intTaken_machine_iff p snap _).mp hgate
  rw [h] at hdeleg
  cases hdeleg

/-- With no flag and no interrupt the MRET identity decides on the return (R300). -/
theorem arbitrate_of_mret (p : Params) (priv : Priv) (snap : Bank) (inp : TickInputs) (hflag : noFlag inp = true)
    (hkind : kindOfBits inp.instrKind = .mret) (hint : noInterrupt p priv snap inp = true) :
    arbitrate p priv snap inp = .mret := by
  rw [arbitrate_of_no_trap_condition p priv snap inp hflag (noEnvKind_of_mret p inp hkind) hint]
  simp [returnDecision, hkind]

/-- At User a delegated interrupt is taken into Supervisor in the very tick in which its line is held (R312, R313). -/
theorem tick_user_delegated (p : Params) (b : Bank) (inp : TickInputs) (hw : inp.csrWEn = false)
    (hflag : noFlag inp = true) (hkind : noEnvKind p inp = true) (hirq : inp.irq ≠ 0)
    (hdeleg : b.mideleg.getLsbD (intCode inp.irq).toNat = true) :
    ∃ r, tick p b .user inp = .ok r ∧
      EnteredSupervisor .user b true (intCode inp.irq) (intReturnAddress inp) 0 r.bank r.priv r.out.redirectTarget := by
  have hsnap := snapshot_of_no_write p b inp hw
  have hint : noInterrupt p .user (snapshot p b inp) inp = false :=
    (noInterrupt_eq_false_iff _ _ _ _).mpr ⟨hirq, intTaken_user _ _ _⟩
  obtain ⟨r, hr, -, hentered⟩ :=
    tick_intTrap p b .user inp _ _ (arbitrate_of_interrupt p .user _ inp hflag hkind hint)
  rw [hsnap, if_pos ⟨by simp, hdeleg⟩] at hentered
  exact ⟨r, hr, hentered⟩

/-- Settles O30: the gate at Machine is closed to the delegated interrupt, so the return happens; it keeps `mideleg` and
`stvec`, and at User the gate is open. -/
theorem delegatedInterruptWaitsForReturn : Obligations.DelegatedInterruptWaitsForReturn := by
  intro p b inp inp₂ hflag hkind hw hmpp hdeleg hflag₂ hkind₂ hw₂ hirq hne
  have hsnap := snapshot_of_no_write p b inp hw
  have hdec : arbitrate p .machine (snapshot p b inp) inp = .mret := by
    rw [hsnap]
    exact arbitrate_of_mret p .machine b inp hflag hkind (noInterrupt_machine_of_delegated p b inp hdeleg)
  obtain ⟨hreturn, -⟩ := machineReturn p b .machine inp hdec
  obtain ⟨r, hr, -, htarget, hpriv, -⟩ := hreturn .user (by rw [hsnap, hmpp]; rfl)
  obtain ⟨⟨-, hstvec, -, hmideleg, -⟩, -⟩ := trapLogicWritesOnlyItsFields p b .machine inp r hr hw
  obtain ⟨r₂, hr₂, hpriv₂, hsepc, hscause, -, -, -, -, -, htarget₂⟩ :=
    tick_user_delegated p r.bank inp₂ hw₂ hflag₂ hkind₂ (hirq ▸ hne) (by rw [hmideleg, hirq]; exact hdeleg)
  rw [hirq] at hscause htarget₂
  rw [hstvec] at htarget₂
  exact ⟨r, r₂, hr, hpriv, htarget.trans (by rw [hsnap]), hpriv ▸ hr₂, hpriv₂, hsepc, hscause, htarget₂⟩

end Sys2Proof.Machine
end

section
/-!
PROOF. The round trips (O32, O33): a handler that writes neither the status register nor the saved return address runs
with interrupts closed, so the return finds what the trap entry saved.
-/

namespace Sys2Proof.Machine

/-! ### What a trap saves, and what a tick keeps of it -/

/-- The addresses of `mepc` and `sepc`, in which a trap saves its return address (R320, R321). -/
def returnAddressCsrs : List CsrAddr := [0x341, 0x141]

/-- The bank holds the status word `ms`, and the saved return address `epc` at the address `a`. -/
def TrapSaved (p : Params) (a : CsrAddr) (ms epc : Word) (b : Bank) : Prop :=
  b.mstatus = ms ∧ csrRead p b a = epc

/-- No view stands over a saved return address, so it shares its storage with itself alone. -/
theorem shareStorage_returnAddress (w a : CsrAddr) (ha : a ∈ returnAddressCsrs) : shareStorage w a = (w == a) := by
  simp only [returnAddressCsrs, List.mem_cons, List.not_mem_nil, or_false] at ha
  rcases ha with rfl | rfl <;> simp [shareStorage]

/-- The counter does not hold what a trap saves. -/
theorem trapSaved_with_cyc (p : Params) (a : CsrAddr) (ms epc : Word) (b : Bank) (n : Counter)
    (ha : a ∈ returnAddressCsrs) (hb : TrapSaved p a ms epc b) : TrapSaved p a ms epc { b with cyc := n } := by
  simp only [returnAddressCsrs, List.mem_cons, List.not_mem_nil, or_false] at ha
  rcases ha with rfl | rfl <;> exact hb

/-- A tick's snapshot reads as the stored bank wherever its ordinary write shares no storage (R155, R161). -/
theorem csrRead_snapshot_of_not_shareStorage (p : Params) (b : Bank) (inp : TickInputs) (a : CsrAddr)
    (hw : inp.csrWEn = true → shareStorage inp.csrWAddr a = false) : csrRead p (snapshot p b inp) a = csrRead p b a := by
  cases hwe : inp.csrWEn with
  | false => rw [snapshot_of_no_write p b inp hwe]
  | true =>
    rw [snapshot_of_write p b inp hwe]
    exact csrRead_applyOrdinary_of_not_shareStorage p b _ a _ (hw hwe)

/-- A tick that writes neither `mstatus`, nor its view, nor the return address has in its snapshot what was saved. -/
theorem trapSaved_snapshot (p : Params) (a : CsrAddr) (ms epc : Word) (b : Bank) (inp : TickInputs)
    (ha : a ∈ returnAddressCsrs) (hw : inp.csrWEn = true → inp.csrWAddr ∉ [0x300#12, 0x100#12, a])
    (hb : TrapSaved p a ms epc b) : TrapSaved p a ms epc (snapshot p b inp) := by
  simp only [List.mem_cons, List.not_mem_nil, or_false, not_or] at hw
  obtain ⟨hms, hepc⟩ := hb
  have hstatus : csrRead p (snapshot p b inp) 0x300 = csrRead p b 0x300 :=
    csrRead_snapshot_of_not_shareStorage p b inp 0x300 fun hwe => by
      obtain ⟨hmstatus, hsstatus, -⟩ := hw hwe
      simp [shareStorage, hmstatus, hsstatus]
  have hreturn : csrRead p (snapshot p b inp) a = csrRead p b a :=
    csrRead_snapshot_of_not_shareStorage p b inp a fun hwe => by
      obtain ⟨-, -, haddr⟩ := hw hwe
      simp [shareStorage_returnAddress _ a ha, haddr]
  exact ⟨hstatus.trans hms, hreturn.trans hepc⟩

/-! ### A run of handler ticks -/

/-- A handler run whose ticks present no exception and no identity, write nothing that the trap saved, and find the
interrupt gate closed: every tick answers and decides on no trap, and what the trap saved is kept. -/
theorem runTicks_of_handler (p : Params) (priv : Priv) (a : CsrAddr) (ms epc : Word) (hs : List TickInputs)
    (ha : a ∈ returnAddressCsrs)
    (hpresents : ∀ h ∈ hs, noFlag h = true ∧ kindOfBits h.instrKind = .none ∧
      (h.csrWEn = true → h.csrWAddr ∉ [0x300#12, 0x100#12, a]))
    (hclosed : ∀ h ∈ hs, ∀ snap, snap.mstatus = ms → noInterrupt p priv snap h = true)
    (b : Bank) (hb : TrapSaved p a ms epc b) :
    ∃ b', runTicks p b priv hs = .ok (b', priv) ∧ TrapSaved p a ms epc b' := by
  induction hs generalizing b with
  | nil => exact ⟨b, rfl, hb⟩
  | cons h hs ih =>
    obtain ⟨hflag, hkind, hw⟩ := hpresents h List.mem_cons_self
    have hsnap := trapSaved_snapshot p a ms epc b h ha hw hb
    have hdec : arbitrate p priv (snapshot p b h) h = .noTrap :=
      arbitrate_of_none p priv _ h hflag hkind (hclosed h List.mem_cons_self _ hsnap.1)
    obtain ⟨r, hr⟩ := tick_answers_of_noTrap p b priv h hdec
    obtain ⟨-, hpriv, hbank⟩ := tick_noTrap p b priv h r hr hdec
    have hsaved : TrapSaved p a ms epc r.bank := hbank ▸ trapSaved_with_cyc p a ms epc _ _ ha hsnap
    obtain ⟨b', hrun, hb'⟩ := ih (fun h hm => hpresents h (List.mem_cons_of_mem _ hm))
      (fun h hm => hclosed h (List.mem_cons_of_mem _ hm)) r.bank hsaved
    exact ⟨b', by rw [runTicks, hr, ← hrun, ← hpriv], hb'⟩

/-! ### The trap that begins a round trip -/

/-- A tick that took a trap entered the mode that it left, and Supervisor only from below Machine (R320, R321). -/
theorem entered_of_tick (p : Params) (b : Bank) (priv : Priv) (inp : TickInputs) (r : TickResult) (c : Code)
    (epc tval : Word) (h : tick p b priv inp = .ok r)
    (hdec : arbitrate p priv (snapshot p b inp) inp = .excTrap c epc tval ∨
      arbitrate p priv (snapshot p b inp) inp = .intTrap c epc) :
    ∃ intr tval',
      (r.priv = .machine →
        EnteredMachine priv (snapshot p b inp) intr c epc tval' r.bank r.priv r.out.redirectTarget) ∧
      (r.priv = .supervisor → priv ≠ .machine ∧
        EnteredSupervisor priv (snapshot p b inp) intr c epc tval' r.bank r.priv r.out.redirectTarget) := by
  obtain ⟨e, he, rfl⟩ := tick_ok _ _ _ _ _ h
  obtain ⟨target, intr, tval', rfl, hbelow⟩ : ∃ target intr tval',
      e = takeTrap target priv (snapshot p b inp) intr c epc tval' ∧ (target = .supervisor → priv ≠ .machine) := by
    rcases hdec with hdec | hdec
    · rw [hdec] at he; cases he
      exact ⟨_, _, _, rfl, ne_machine_of_excTarget _ _ _⟩
    · rw [hdec] at he; cases he
      exact ⟨_, _, _, rfl, ne_machine_of_intTarget _ _ _⟩
  refine ⟨intr, tval', ?_⟩
  cases target with
  | user | machine => exact ⟨fun _ => commit_trapEnterM p b priv inp _ intr c epc tval', nofun⟩
  | supervisor => exact ⟨nofun, fun _ => ⟨hbelow rfl, commit_trapEnterS p b priv inp _ intr c epc tval'⟩⟩

/-! ### The machine round trip -/

/-- Settles O32: the entry clears MIE, so no handler tick decides anything and the MRET is decided; it finds the status
word and the return address of the entry. -/
theorem machineTrapRoundTrip : Obligations.MachineTrapRoundTrip := by
  intro p b priv inp inpR hs r c epc tval h hpriv hdec hticks hnone hmret
  obtain ⟨intr, tval', hmachine, -⟩ := entered_of_tick p b priv inp r c epc tval h hdec
  obtain ⟨-, hepc, -, -, ⟨hmpie, hmie, hmpp, -⟩, -⟩ := hmachine hpriv
  have ha : 0x341 ∈ returnAddressCsrs := by simp [returnAddressCsrs]
  have hclosed : ∀ t : TickInputs, ∀ snap : Bank, snap.mstatus = r.bank.mstatus →
      noInterrupt p .machine snap t = true := fun t snap hms =>
    noInterrupt_machine_of_mie_clear p snap t (hms ▸ hmie)
  obtain ⟨b', hrun, hb'⟩ := runTicks_of_handler p .machine 0x341 r.bank.mstatus epc hs ha
    (fun t ht => ⟨(hticks t (List.mem_cons_of_mem _ ht)).1, hnone t ht, (hticks t (List.mem_cons_of_mem _ ht)).2⟩)
    (fun t _ => hclosed t) r.bank ⟨rfl, hepc⟩
  obtain ⟨hflag, hw⟩ := hticks inpR List.mem_cons_self
  obtain ⟨hms', hepc'⟩ := trapSaved_snapshot p 0x341 _ epc b' inpR ha hw hb'
  obtain ⟨hreturn, -⟩ :=
    machineReturn p b' .machine inpR (arbitrate_of_mret p .machine _ inpR hflag hmret (hclosed inpR _ hms'))
  obtain ⟨r', hr', hredirect, htarget, hpriv', ⟨hmie', hmpie', hmpp', -⟩, -⟩ :=
    hreturn priv (by rw [hms']; exact hmpp.symm)
  rw [hms'] at hmie'
  exact ⟨b', r', hpriv ▸ hrun, hr', hpriv', hredirect, htarget.trans hepc', hmie'.trans hmpie, hmpie', hmpp'⟩

/-! ### The supervisor round trip -/

/-- At Supervisor no interrupt passes the gate of the current level while SIE is clear (R312, R18). -/
theorem noInterrupt_supervisor_of_sie_clear (p : Params) (snap : Bank) (inp : TickInputs)
    (hgate : p.intGateBelowM = .currentEnable ∨ inp.irq = 0) (hsie : snap.mstatus.getLsbD 1 = false) :
    noInterrupt p .supervisor snap inp = true := by
  rcases hgate with hgate | hirq
  · by_contra hint
    obtain ⟨-, htaken⟩ := (noInterrupt_eq_false_iff p .supervisor snap inp).mp (Bool.eq_false_iff.mpr hint)
    rcases (intTaken_supervisor_iff p snap _).mp htaken with ⟨-, hon⟩ | ⟨-, hon | halways⟩
    · rw [hsie] at hon; cases hon
    · rw [hsie] at hon; cases hon
    · rw [hgate] at halways; cases halways
  · exact noInterrupt_of_irq_zero p .supervisor snap inp hirq

/-- With no flag, no interrupt and TSR clear the SRET identity decides on the return (R300, R211). -/
theorem arbitrate_of_sret (p : Params) (priv : Priv) (snap : Bank) (inp : TickInputs) (hflag : noFlag inp = true)
    (hkind : kindOfBits inp.instrKind = .sret) (hint : noInterrupt p priv snap inp = true)
    (htsr : statusTsr snap.mstatus = false) : arbitrate p priv snap inp = .sret := by
  rw [arbitrate_of_no_trap_condition p priv snap inp hflag (noEnvKind_of_sret p inp hkind) hint]
  simp [returnDecision, hkind, htsr]

/-- Below Machine, SPP tells the trapped mode (R321, R209). -/
theorem priv_of_spp (priv : Priv) (h : priv ≠ .machine) :
    (if (priv == .supervisor) = true then Priv.supervisor else Priv.user) = priv := by
  cases priv with
  | machine => exact absurd rfl h
  | user | supervisor => rfl

/-- Settles O33: the entry clears SIE and keeps TSR, so no handler tick decides anything and the SRET is decided; it finds
the status word and the return address of the entry. -/
theorem supervisorTrapRoundTrip : Obligations.SupervisorTrapRoundTrip := by
  intro p b priv inp inpR hs r c epc tval h hpriv hdec htsr hticks hnone hsret
  obtain ⟨intr, tval', -, hsupervisor⟩ := entered_of_tick p b priv inp r c epc tval h hdec
  obtain ⟨hbelow, -, hepc, -, -, ⟨hspie, hsie, hspp, hkeep⟩, -⟩ := hsupervisor hpriv
  have ha : 0x141 ∈ returnAddressCsrs := by simp [returnAddressCsrs]
  have hclosed : ∀ t ∈ inpR :: hs, ∀ snap : Bank, snap.mstatus = r.bank.mstatus →
      noInterrupt p .supervisor snap t = true := fun t ht snap hms =>
    noInterrupt_supervisor_of_sie_clear p snap t (hticks t ht).2.1 (hms ▸ hsie)
  obtain ⟨b', hrun, hb'⟩ := runTicks_of_handler p .supervisor 0x141 r.bank.mstatus epc hs ha
    (fun t ht => ⟨(hticks t (List.mem_cons_of_mem _ ht)).1, hnone t ht, (hticks t (List.mem_cons_of_mem _ ht)).2.2⟩)
    (fun t ht => hclosed t (List.mem_cons_of_mem _ ht)) r.bank ⟨rfl, hepc⟩
  obtain ⟨hflag, -, hw⟩ := hticks inpR List.mem_cons_self
  obtain ⟨hms', hepc'⟩ := trapSaved_snapshot p 0x141 _ epc b' inpR ha hw hb'
  have htsr' : statusTsr (snapshot p b' inpR).mstatus = false := by
    rw [hms']
    exact (hkeep 22 (by decide)).trans htsr
  obtain ⟨r', hr', hredirect, htarget, hpriv', ⟨hsie', hspie', hspp', hmprv', -⟩, -⟩ :=
    supervisorReturn p b' .supervisor inpR
      (arbitrate_of_sret p .supervisor _ inpR hflag hsret (hclosed inpR List.mem_cons_self _ hms') htsr')
  rw [hms', hspp, priv_of_spp priv hbelow] at hpriv'
  rw [hms'] at hsie'
  exact ⟨b', r', hpriv ▸ hrun, hr', hpriv', hredirect, htarget.trans hepc', hsie'.trans hspie, hspie', hspp', hmprv'⟩

end Sys2Proof.Machine
end
